-- ==== Sys2Proof/Word.lean ====
section
/-! DEFINITION. The words of the block: 00_scope.md R9 and R10. Every value is unsigned. -/

namespace Sys2Proof

/-- A register address, a register value, and every byte operand (R9). -/
abbrev Byte := BitVec 8

/-- `opType`, `telegramId` and `telegramLen` are 4 bits each (R9). -/
abbrev Nibble := BitVec 4

/-- `functionId` is 12 bits (R9). -/
abbrev FunctionId := BitVec 12

/-- The 16-bit word of two frame bytes, and `fo` and `L` of a SEND stimulus (R86, R92). -/
abbrev Word16 := BitVec 16

end Sys2Proof
end

