-- ==== Sys2Proof/Syntax.lean ====
section
/-! DEFINITION. The stimuli the block accepts (30_encoding.md R82), one constructor per row of the opcode
table, and the refusal codes of 60_exceptions.md R242. -/

namespace Sys2Proof

/-- The three outstanding-request kinds, coded 0, 1 and 2 (R87). -/
inductive ReqKind where
  | alloc
  | getSource
  | dealloc
  deriving DecidableEq, Repr, Inhabited

/-- The request header `h` of `sendControlMessage` (R27, R45, R160). -/
structure Header where
  /-- targetAddressHigh -/
  tH : Byte
  /-- targetAddressLow -/
  tL : Byte
  /-- fBlockId -/
  fb : Byte
  /-- instanceId -/
  inst : Byte
  /-- functionId -/
  fn : FunctionId
  /-- opType -/
  op : Nibble
  deriving DecidableEq, Repr, Inhabited

/-- `TxRequest` (10_state.md R45); the bound on the payload is `Instr.wellFormed`. -/
structure TxRequest where
  hdr : Header
  payload : List Byte
  deriving DecidableEq, Repr, Inhabited

/-- A stimulus (R82). The operands keep the names of the rule that gives the stimulus its meaning. -/
inductive Instr where
  /-- R270 -/
  | reset
  /-- R110 -/
  | rtWrite (a v : Byte)
  /-- R111 -/
  | rtRead (a n : Byte)
  /-- R112 -/
  | rtRmwClr (a m : Byte)
  /-- R113 -/
  | rtRmwSet (a m : Byte)
  /-- R130 -/
  | irq
  /-- R160 -/
  | send (req : TxRequest)
  /-- R271 -/
  | tickSettle
  /-- R206 -/
  | tickLockPoll
  /-- R221 -/
  | tickReq (k : ReqKind)
  /-- R220 -/
  | reqArm (k : ReqKind)
  /-- R224 -/
  | getNodePos
  /-- R225 -/
  | getMaxPos
  deriving DecidableEq, Repr, Inhabited

/-- The refusal codes (60_exceptions.md R242). -/
inductive RefusalCode where
  /-- REFUSED_UNKNOWN_OPCODE -/
  | unknownOpcode
  /-- REFUSED_MALFORMED -/
  | malformed
  /-- REFUSED_FIELD_RANGE -/
  | fieldRange
  /-- REFUSED_STATE -/
  | state
  /-- REFUSED_NOT_ENABLED -/
  | notEnabled
  deriving DecidableEq, Repr, Inhabited

end Sys2Proof
end

