-- ==== Sys2Proof/WellFormed.lean ====
section
/-! DEFINITION. Which stimuli can be encoded: the operand ranges of 30_encoding.md R84 and R86. The range of
`k` (R87, R88) is the type `ReqKind`, and `fo` has no illegal value (R86). -/

namespace Sys2Proof

/-- `1 <= n` and `a + n - 1 <= 0xFF`, on naturals: the bounds of a burst read (20_memory.md R63, R181). -/
def burstInBounds (a n : Byte) : Bool :=
  decide (1 ≤ n.toNat) && decide (a.toNat + n.toNat - 1 ≤ 0xFF)

/-- The greatest payload length of a TxRequest (R9, R45). -/
abbrev maxPayload : Nat := 4095

/-- An operand outside these ranges is refused with REFUSED_FIELD_RANGE (R84, R86). -/
def Instr.wellFormed : Instr → Bool
  | .reset => true
  | .rtWrite _ _ => true
  | .rtRead a n => burstInBounds a n
  | .rtRmwClr _ _ => true
  | .rtRmwSet _ _ => true
  | .irq => true
  | .send req => decide (req.payload.length ≤ maxPayload)
  | .tickSettle => true
  | .tickLockPoll => true
  | .tickReq _ => true
  | .reqArm _ => true
  | .getNodePos => true
  | .getMaxPos => true

end Sys2Proof
end

