-- ==== Sys2Proof/Decode.lean ====
section
/-! DEFINITION. The byte encoding of the stimuli (30_encoding.md R80 to R91): the opcode map, the decoder, the
encoder, and the decoder of a whole program. -/

namespace Sys2Proof

/-! ### Bytes and fields -/

/-- Bits 15:8 of a word: the byte at the lower index of a big-endian pair (R66, R80). -/
def hiByte (w : Word16) : Byte := w.extractLsb' 8 8

/-- Bits 7:0 of a word. -/
def loByte (w : Word16) : Byte := w.extractLsb' 0 8

/-- The big-endian word of two bytes, the more significant first (R80, R99). -/
def joinBytes (hi lo : Byte) : Word16 := hi ++ lo

/-- `word = (functionId << 4) OR opType` (R92); also `fo` of a SEND (R86). -/
def packFnOp (fn : FunctionId) (op : Nibble) : Word16 := (fn.setWidth 16 <<< 4) ||| op.setWidth 16

/-- `functionId = fo[15:4]` (R86, R99). -/
def wordFn (w : Word16) : FunctionId := w.extractLsb' 4 12

/-- `opType = fo[3:0]` (R86, R99). -/
def wordOp (w : Word16) : Nibble := w.extractLsb' 0 4

/-! ### The opcode map -/

/-- The rows of the opcode map (R82). -/
inductive Opcode where
  | reset | rtWrite | rtRead | rtRmwClr | rtRmwSet | irq | send
  | tickSettle | tickLockPoll | tickReq | reqArm | getNodePos | getMaxPos
  deriving DecidableEq, Repr

/-- Byte 0 of the stimulus (R82). -/
def opcodeByte : Opcode → Byte
  | .reset => 0x00
  | .rtWrite => 0x01
  | .rtRead => 0x02
  | .rtRmwClr => 0x03
  | .rtRmwSet => 0x04
  | .irq => 0x10
  | .send => 0x20
  | .tickSettle => 0x30
  | .tickLockPoll => 0x31
  | .tickReq => 0x32
  | .reqArm => 0x40
  | .getNodePos => 0x50
  | .getMaxPos => 0x51

/-- The whole opcode map. -/
def opcodes : List Opcode :=
  [.reset, .rtWrite, .rtRead, .rtRmwClr, .rtRmwSet, .irq, .send,
   .tickSettle, .tickLockPoll, .tickReq, .reqArm, .getNodePos, .getMaxPos]

/-- The row of byte 0; none for a reserved opcode (R90). -/
def opcodeOf (b : Byte) : Option Opcode := opcodes.find? fun o => opcodeByte o == b

/-- The row a stimulus belongs to (R82). -/
def opcodeOfInstr : Instr → Opcode
  | .reset => .reset
  | .rtWrite _ _ => .rtWrite
  | .rtRead _ _ => .rtRead
  | .rtRmwClr _ _ => .rtRmwClr
  | .rtRmwSet _ _ => .rtRmwSet
  | .irq => .irq
  | .send _ => .send
  | .tickSettle => .tickSettle
  | .tickLockPoll => .tickLockPoll
  | .tickReq _ => .tickReq
  | .reqArm _ => .reqArm
  | .getNodePos => .getNodePos
  | .getMaxPos => .getMaxPos

/-- How many bytes of operands the opcode alone fixes (R82): for SEND the eight header bytes after byte 0. -/
def fixedOperandBytes : Opcode → Nat
  | .reset => 0
  | .rtWrite => 2
  | .rtRead => 2
  | .rtRmwClr => 2
  | .rtRmwSet => 2
  | .irq => 0
  | .send => 8
  | .tickSettle => 0
  | .tickLockPoll => 0
  | .tickReq => 1
  | .reqArm => 1
  | .getNodePos => 0
  | .getMaxPos => 0

/-- The length of a stimulus in bytes (R82): `9 + L` for SEND. -/
def stimulusLength : Instr → Nat
  | .send req => 9 + req.payload.length
  | i => 1 + fixedOperandBytes (opcodeOfInstr i)

/-- `k` as a byte: 0 ALLOC, 1 GETSRC, 2 DEALLOC (R87). -/
def kindByte : ReqKind → Byte
  | .alloc => 0
  | .getSource => 1
  | .dealloc => 2

/-- The kind a byte names; none for a `k` of 3 or more (R87, R88). -/
def kindOf (b : Byte) : Option ReqKind :=
  if b = 0 then some .alloc
  else if b = 1 then some .getSource
  else if b = 2 then some .dealloc
  else none

/-! ### The decoder -/

/-- What decoding one stimulus answers: the stimulus and the bytes after it, or a refusal code. -/
abbrev Decoded := Except RefusalCode (Instr × List Byte)

/-- A stimulus whose operand is out of range is refused (R84, R86). -/
def checkRange (i : Instr) (rest : List Byte) : Decoded :=
  if i.wellFormed then .ok (i, rest) else .error .fieldRange

/-- Two one-byte operands (R84). -/
def decodeTwo (mk : Byte → Byte → Instr) : List Byte → Decoded
  | x :: y :: rest => checkRange (mk x y) rest
  | _ => .error .malformed

/-- One operand `k` (R87, R88). -/
def decodeKind (mk : ReqKind → Instr) : List Byte → Decoded
  | b :: rest =>
    match kindOf b with
    | some k => checkRange (mk k) rest
    | none => .error .fieldRange
  | [] => .error .malformed

/-- The operands of SEND (R86): the truncation check comes before the range check (60_exceptions.md R243). -/
def decodeSend : List Byte → Decoded
  | tH :: tL :: fb :: inst :: foHi :: foLo :: lHi :: lLo :: more =>
    let fo := joinBytes foHi foLo
    let len := (joinBytes lHi lLo).toNat
    if more.length < len then .error .malformed
    else
      checkRange
        (.send
          { hdr := { tH := tH, tL := tL, fb := fb, inst := inst, fn := wordFn fo, op := wordOp fo },
            payload := more.take len })
        (more.drop len)
  | _ => .error .malformed

/-- The operands after byte 0 (R82). -/
def decodeOperands : Opcode → List Byte → Decoded
  | .reset, rest => checkRange .reset rest
  | .rtWrite, rest => decodeTwo .rtWrite rest
  | .rtRead, rest => decodeTwo .rtRead rest
  | .rtRmwClr, rest => decodeTwo .rtRmwClr rest
  | .rtRmwSet, rest => decodeTwo .rtRmwSet rest
  | .irq, rest => checkRange .irq rest
  | .send, rest => decodeSend rest
  | .tickSettle, rest => checkRange .tickSettle rest
  | .tickLockPoll, rest => checkRange .tickLockPoll rest
  | .tickReq, rest => decodeKind .tickReq rest
  | .reqArm, rest => decodeKind .reqArm rest
  | .getNodePos, rest => checkRange .getNodePos rest
  | .getMaxPos, rest => checkRange .getMaxPos rest

/-- Decode the first stimulus of a program (R80, R90, R91). No byte at all is a program that ends inside a
stimulus; `step` asks for no stimulus of an empty program. -/
def decode : List Byte → Decoded
  | [] => .error .malformed
  | b :: rest =>
    match opcodeOf b with
    | some o => decodeOperands o rest
    | none => .error .unknownOpcode

/-- Decode a whole program front to back (R91): the stimuli, and the refusal with its byte offset if there is
one. `fuel` bounds the number of stimuli; each takes at least one byte. -/
def decodeFrom : Nat → Nat → List Byte → List Instr × Option (RefusalCode × Nat)
  | 0, _, _ => ([], none)
  | fuel + 1, offset, bytes =>
    match bytes with
    | [] => ([], none)
    | _ :: _ =>
      match decode bytes with
      | .ok (i, rest) =>
        let more := decodeFrom fuel (offset + (bytes.length - rest.length)) rest
        (i :: more.1, more.2)
      | .error c => ([], some (c, offset))

/-- Any byte sequence decodes to a list of stimuli, or to one followed by a refusal at an offset (R91). -/
def decodeProgram (bytes : List Byte) : List Instr × Option (RefusalCode × Nat) :=
  decodeFrom bytes.length 0 bytes

/-! ### The encoder -/

/-- The operand bytes of a stimulus (R84 to R89). -/
def operandBytes : Instr → List Byte
  | .reset => []
  | .rtWrite a v => [a, v]
  | .rtRead a n => [a, n]
  | .rtRmwClr a m => [a, m]
  | .rtRmwSet a m => [a, m]
  | .irq => []
  | .send req =>
    let fo := packFnOp req.hdr.fn req.hdr.op
    let len := BitVec.ofNat 16 req.payload.length
    [req.hdr.tH, req.hdr.tL, req.hdr.fb, req.hdr.inst, hiByte fo, loByte fo, hiByte len, loByte len]
      ++ req.payload
  | .tickSettle => []
  | .tickLockPoll => []
  | .tickReq k => [kindByte k]
  | .reqArm k => [kindByte k]
  | .getNodePos => []
  | .getMaxPos => []

/-- The bytes of a stimulus (R80). -/
def encode (i : Instr) : List Byte := opcodeByte (opcodeOfInstr i) :: operandBytes i

/-! ### The words of the opcode table -/

/-- The first `count` bytes of `w`, least significant byte first. -/
def bytesOfWord : Nat → Nat → List Byte
  | 0, _ => []
  | count + 1, w => BitVec.ofNat 8 w :: bytesOfWord count (w / 256)

/-- `bytes` followed by zeros to a length of at least `n`. -/
def padTo (n : Nat) (bytes : List Byte) : List Byte := bytes ++ List.replicate (n - bytes.length) 0

/-- How many bytes a stimulus that begins so has, from byte 0 and for SEND from bytes 7 and 8 (R91). -/
def neededLength (bytes : List Byte) : Nat :=
  match bytes with
  | [] => 0
  | b :: _ =>
    match opcodeOf b with
    | some .send => 9 + (joinBytes ((padTo 9 bytes).getD 7 0) ((padTo 9 bytes).getD 8 0)).toNat
    | some o => 1 + fixedOperandBytes o
    | none => 1

/-- The bytes of a row's word: `nbits` bits of `w`, byte 0 in the lowest bits, and zeros up to the length the
stimulus has. -/
def tableBytes (nbits w : Nat) : List Byte :=
  let given := bytesOfWord ((nbits + 7) / 8) w
  padTo (neededLength given) given

/-- The stimulus the decoder reads from a row's word; none where it refuses. -/
def decodeTableWord (nbits w : Nat) : Option Instr :=
  match decode (tableBytes nbits w) with
  | .ok (i, _) => some i
  | .error _ => none

end Sys2Proof
end

