-- ==== Sys2Proof/Machine/Event.lean ====
section
/-! DEFINITION. The types the block exchanges and the events of its trace (10_state.md R41 to R45), and the two
register accesses (20_memory.md R63, R64). -/

namespace Sys2Proof

/-- The level the block drives on the chip's reset line, named by the source's words (R24). -/
inductive ResetLevel where
  | asserted
  | deasserted
  deriving DecidableEq, Repr, Inhabited

/-- One inbound control message (R43). -/
structure RxMessage where
  sourceAddressHigh : Byte
  sourceAddressLow : Byte
  fBlockId : Byte
  instanceId : Byte
  functionId : FunctionId
  opType : Nibble
  telegramId : Nibble
  telegramLen : Nibble
  payload : List Byte
  deriving DecidableEq, Repr, Inhabited

/-- The answers of an allocation (R44). -/
inductive AllocAnswer where
  | grant
  | busy
  | deny
  | wrongTarget
  | error
  deriving DecidableEq, Repr, Inhabited

/-- `channelLocations: [u8;4]` (R44). -/
structure ChannelLocations where
  ch0 : Byte
  ch1 : Byte
  ch2 : Byte
  ch3 : Byte
  deriving DecidableEq, Repr, Inhabited

/-- `AllocationResult` (R44). -/
structure AllocationResult where
  channelLocations : ChannelLocations
  connectionLabel : Byte
  answer : AllocAnswer
  freeChannels : Byte
  deriving DecidableEq, Repr, Inhabited

/-- The answers of a deallocation (R44). -/
inductive DeallocAnswer where
  | grant
  | busy
  | wrong
  | wrongTarget
  | error
  deriving DecidableEq, Repr, Inhabited

/-- `DeallocationResult` (R44). -/
structure DeallocationResult where
  answer : DeallocAnswer
  deriving DecidableEq, Repr, Inhabited

/-- The kinds of a `Log` event (R42). -/
inductive LogKind where
  | dropUnlocked
  | unmatchedStatus
  | irqIgnored
  | mpChunkDropped
  | mpAborted
  | deallocNoLabel
  deriving DecidableEq, Repr, Inhabited

/-- The kinds of an `AllocPortReq`: `DEALLOC_ALL` is the only one (R274). -/
inductive AllocPortKind where
  | deallocAll
  deriving DecidableEq, Repr, Inhabited

/-- What a `HostReturn` carries: RT_WRITE's receive byte (R110), RT_READ's bytes (R111), or a cached position
that may be none (R224, R225). -/
inductive HostValue where
  | byte (rx : Byte)
  | bytes (data : List Byte)
  | position (p : Option Byte)
  deriving DecidableEq, Repr, Inhabited

/-- The events of the trace: exactly these constructors (R42). -/
inductive Event where
  | mostMessageRx (m : RxMessage)
  | allocResult (r : AllocationResult)
  | deallocResult (r : DeallocationResult)
  | locked
  | unlocked
  | messageSent
  /-- Listed by the source, never emitted by the block (60_exceptions.md R257). -/
  | shutdown
  | positionUpdate (position max : Byte)
  /-- The 21-byte slot handed to the chip (43_frame_codec.md R176). -/
  | frameOut (f : List Byte)
  /-- The whole 20-byte mailbox of a get-source result (45_request_tracking.md R228). -/
  | remoteSourceResult (mb : List Byte)
  | allocPortReq (kind : AllocPortKind) (label : Byte)
  | resetLine (level : ResetLevel)
  | regRead (a n : Byte) (data : List Byte)
  | regWrite (a v rx : Byte)
  | hostReturn (v : HostValue)
  | log (kind : LogKind)
  deriving DecidableEq, Repr, Inhabited

/-- One register access as the chip sees it: a read of `n` bytes from `a` (R63) or a write of `v` at `a` (R64). -/
inductive Access where
  | read (a n : Byte)
  | write (a v : Byte)
  deriving DecidableEq, Repr, Inhabited

end Sys2Proof
end

