-- ==== Sys2Proof/Config.lean ====
section
/-! DEFINITION. The launch parameters of 00_scope.md R8, as plain data, and the free values: what the spec
leaves to a draw. -/

namespace Sys2Proof

/-- A predicate on a byte, as plain data: the default form `(s AND mask) != 0`, or any set of bytes, where bit
`s` of the table says whether it holds of `s`. -/
inductive BytePred where
  | anySet (mask : Byte)
  | table (bits : BitVec 256)
  deriving DecidableEq, Repr, Inhabited

/-- How a read-modify-write clears a reason bit (42_interrupt_dispatch.md R139). -/
inductive ClrPolarity where
  | writeZero
  | writeOne
  deriving DecidableEq, Repr, Inhabited

/-- The value of the receive-buffer re-enable bit that enables (R133). -/
inductive RbePolarity where
  | set
  | clear
  deriving DecidableEq, Repr, Inhabited

/-- The bit value that means "locked" (44_lock_monitor.md R204). -/
inductive LockPolarity where
  | lockedWhenClear
  | lockedWhenSet
  deriving DecidableEq, Repr, Inhabited

/-- What the network-changed branch does beyond clearing its bit (R137). -/
inductive NcPosition where
  | none
  | read
  | either
  deriving DecidableEq, Repr, Inhabited

/-- What a multi-part continuation does while unlocked (43_frame_codec.md R171). -/
inductive GateArm where
  | advance
  | hold
  | abort
  deriving DecidableEq, Repr, Inhabited

/-- `MP_GATE_POLICY`: one arm, or a draw per continuation (R171). -/
inductive GatePolicy where
  | fixed (arm : GateArm)
  | either
  deriving DecidableEq, Repr, Inhabited

/-- Where the allocation result's fields sit in the mailbox payload, each index at most 10 (R223). -/
structure AllocLayout where
  answer : Fin 11
  label : Fin 11
  ch0 : Fin 11
  ch1 : Fin 11
  ch2 : Fin 11
  ch3 : Fin 11
  deriving DecidableEq, Repr, Inhabited

/-- The deallocation codes that do not mean Error, each with its answer: any map of bytes to answers (R226). -/
abbrev DeallocCodeMap := List (Byte × DeallocAnswer)

/-- The default map, by analogy with the allocation map (R226). -/
def defaultDeallocCodes : DeallocCodeMap :=
  [(1, .grant), (2, .busy), (3, .wrong), (4, .wrongTarget)]

/-- The launch parameters (R8), fixed for a launch. A default is one the spec gives. -/
structure Params where
  /-- REG_STATUS -/
  regStatus : Byte
  /-- REG_CTRL -/
  regCtrl : Byte
  /-- REG_FAULT -/
  regFault : Byte
  /-- REG_PLL -/
  regPll : Byte
  /-- REG_FREQ -/
  regFreq : Byte
  /-- REG_RXBUF -/
  regRxBuf : Byte
  /-- REG_MBOX -/
  regMbox : Byte
  /-- REG_RBE -/
  regRbe : Byte
  /-- REG_NPR -/
  regNpr : Byte
  /-- REG_MPR -/
  regMpr : Byte
  /-- MATCH_RX -/
  matchRx : BytePred
  /-- MATCH_ERR -/
  matchErr : BytePred
  /-- MATCH_TX -/
  matchTx : BytePred
  /-- MATCH_NC -/
  matchNc : BytePred
  /-- C_RX -/
  cRx : Byte
  /-- C_ERR -/
  cErr : Byte
  /-- C_TX -/
  cTx : Byte
  /-- C_NC -/
  cNc : Byte
  /-- CLR_POLARITY -/
  clrPolarity : ClrPolarity
  /-- M_RBE -/
  mRbe : Byte
  /-- RBE_POLARITY -/
  rbePolarity : RbePolarity
  /-- M_LOCK_ACTIVE -/
  mLockActive : Byte
  /-- M_PLL -/
  mPll : Byte
  /-- M_FREQ -/
  mFreq : Byte
  /-- LOCK_POLARITY -/
  lockPolarity : LockPolarity := .lockedWhenClear
  /-- TX_START_BYTE -/
  txStartByte : Byte
  /-- TX_RESERVED_BYTE -/
  txReservedByte : Byte
  /-- IS_EXTENDED -/
  isExtended : BytePred
  /-- IS_MASTER -/
  isMaster : Bool
  /-- CONFIG_TABLE -/
  configTable : List (Byte × Byte)
  /-- NC_POSITION -/
  ncPosition : NcPosition := .either
  /-- MP_GATE_POLICY -/
  mpGatePolicy : GatePolicy := .either
  /-- BRINGUP_STARTS_POLL -/
  bringupStartsPoll : Bool := true
  /-- ALLOC_LAYOUT -/
  allocLayout : AllocLayout
  /-- DEALLOC_ANSWER_INDEX -/
  deallocAnswerIndex : Fin 11
  /-- DEALLOC_CODE_MAP -/
  deallocCodeMap : DeallocCodeMap := defaultDeallocCodes
  deriving DecidableEq, Repr, Inhabited

/-- The constraint on the two 20-byte buffers (20_memory.md R70). -/
def Params.wellFormed (P : Params) : Bool :=
  decide (P.regRxBuf.toNat + 19 ≤ 0xFF) && decide (P.regMbox.toNat + 19 ≤ 0xFF)

/-- The parameters of the launch that `State.reset` stands for: OPEN, so nothing is known of them.
DESIGN CHOICE (log 1), safe. -/
opaque Config.params : Params

/-- Whether the access fails (`BusError`), for the `k`-th draw after a trace: a free value.
DESIGN CHOICE (log 2), safe. -/
opaque Config.busFails (k : Nat) (trace : List Event) (acc : Access) : Bool

/-- Byte `i` of the chip's answer to an access, for the `k`-th draw after a trace: a free value (20_memory.md
R62). DESIGN CHOICE (log 2), safe. -/
opaque Config.chipByte (k : Nat) (trace : List Event) (acc : Access) (i : Nat) : Byte

/-- Whether a network-changed branch under `NC_POSITION = EITHER` reads the positions: a free value (R137).
DESIGN CHOICE (log 3), safe. -/
opaque Config.ncReads (k : Nat) (trace : List Event) : Bool

/-- The arm a gated continuation takes under `MP_GATE_POLICY = EITHER`: a free value (R171).
DESIGN CHOICE (log 3), safe. -/
opaque Config.gateArm (k : Nat) (trace : List Event) : GateArm

end Sys2Proof
end

