-- ==== Sys2Proof/Machine/State.lean ====
section
/-! DEFINITION. The state: the block's record `st` of 10_state.md R20, the launch parameters, and the outside
world as plain data; the reasons a step can stop; the launch and the reset state. -/

namespace Sys2Proof.Machine

/-- `st.bringup` (R22). -/
inductive Bringup where
  | off
  | resetting
  | awaitingFirstInterrupt
  | configuring
  | operational
  | fatal
  deriving DecidableEq, Repr, Inhabited

/-- `st.irqArmed` (R23). -/
inductive IrqArmed where
  | none
  | oneShot
  | steadyState
  deriving DecidableEq, Repr, Inhabited

/-- A multi-part sending session (R27). -/
structure Session where
  hdr : Header
  remaining : List Byte
  seq : Byte
  deriving DecidableEq, Repr, Inhabited

/-- `st.reqTimers`: how many timeouts of each kind are armed and unexpired (R34). -/
structure ReqTimers where
  alloc : Nat
  getSource : Nat
  dealloc : Nat
  deriving DecidableEq, Repr, Inhabited

/-- The fault codes (60_exceptions.md R240). -/
inductive FaultCode where
  /-- FATAL_TRANSPORT, 0x01 -/
  | transport
  /-- MP_OVERLAP, 0x02 -/
  | mpOverlap
  deriving DecidableEq, Repr, Inhabited

/-- The block's state `st`: exactly the fields of R20. -/
structure Block where
  bringup : Bringup
  irqArmed : IrqArmed
  resetLine : ResetLevel
  settleArmed : Bool
  transceiverLocked : Bool
  lockPollActive : Bool
  mpSession : Option Session
  awaitAlloc : Bool
  awaitGetSource : Bool
  awaitDealloc : Bool
  reqTimers : ReqTimers
  connectionLabel : Option Byte
  allocResult : Option AllocationResult
  nodePosition : Option Byte
  maxPosition : Option Byte
  fault : Option FaultCode
  refused : Bool
  refusedCode : Option RefusalCode
  trace : List Event
  deriving DecidableEq, Repr, Inhabited

/-- What the chip answers to one access: a bus error, or bytes. -/
inductive BusReply where
  | error
  | ok (data : List Byte)
  deriving DecidableEq, Repr, Inhabited

/-- The outside world as the step reads it. None of it is the spec's block state (R20). DESIGN CHOICE (logs 2,
3, 4, 8), safe: every stimulus order and every chip answer is some value of these fields. -/
structure Env where
  /-- The bytes of the stimuli not yet presented (30_encoding.md R80). -/
  program : List Byte
  /-- The byte offset of the next stimulus (R91). -/
  consumed : Nat
  /-- The decode refusal that ended the run, and the offset of its stimulus (R91, R243). -/
  ended : Option (RefusalCode × Nat)
  /-- The chip's next answers, first one first; when it is empty the answers are free values (20_memory.md R62). -/
  replies : List BusReply
  /-- The next draws of NC_POSITION = EITHER, true for READ; when it is empty they are free values (R137). -/
  ncDraws : List Bool
  /-- The next draws of MP_GATE_POLICY = EITHER; when it is empty they are free values (R171). -/
  gateDraws : List GateArm
  /-- How many draws have been taken: the counter the free values are indexed by. -/
  draws : Nat
  deriving DecidableEq, Repr, Inhabited

/-- The state of the machine. -/
structure State where
  /-- The launch parameters: "arguments of the step relation, fixed for a launch" (R20). Log 1. -/
  cfg : Params
  /-- The block's state `st` (R20). -/
  blk : Block
  /-- The outside world. -/
  env : Env
  deriving DecidableEq, Repr, Inhabited

/-- Why the machine stops with a fault. -/
inductive Fault where
  /-- Raised by every meaning and by `step` when `bringup = Fatal`: "In `Fatal`, no stimulus has a step"
  (60_exceptions.md R241). Safe: the machine stops (log 6). -/
  | noStepInFatal
  deriving DecidableEq, Repr

/-- Why there is no step. -/
inductive Refusal where
  /-- Raised by an arm of `exec` whose instruction has no meaning yet. Safe: the machine stops. -/
  | notModelled (mnemonic : String)
  /-- Raised by `step` when no stimulus is left: the run has ended after the step of the last one
  (70_reset_and_hazards.md R287(a)). Safe: the machine stops (log 8). -/
  | noStimulus
  /-- Raised by `step` after a decode refusal: "the run ends there" (60_exceptions.md R243, R287(b)). Safe: the
  machine stops (log 8). -/
  | runEnded
  deriving DecidableEq, Repr

/-- The block before any stimulus (10_state.md R46), with the reset line at a level the launch draws (R24). -/
def Block.launch (line : ResetLevel) : Block where
  bringup := .off
  irqArmed := .none
  resetLine := line
  settleArmed := false
  transceiverLocked := false
  lockPollActive := false
  mpSession := none
  awaitAlloc := false
  awaitGetSource := false
  awaitDealloc := false
  reqTimers := { alloc := 0, getSource := 0, dealloc := 0 }
  connectionLabel := none
  allocResult := none
  nodePosition := none
  maxPosition := none
  fault := none
  refused := false
  refusedCode := none
  trace := []

/-- An outside world with nothing to present and no answer fixed. -/
def Env.silent : Env where
  program := []
  consumed := 0
  ended := none
  replies := []
  ncDraws := []
  gateDraws := []
  draws := 0

/-- The launch state (R46) under parameters `P`. -/
def State.launch (P : Params) (line : ResetLevel) : State where
  cfg := P
  blk := Block.launch line
  env := Env.silent

/-- The block right after a RESET of the launch state: the table of R47. -/
def Block.afterReset : Block where
  bringup := .resetting
  irqArmed := .none
  resetLine := .deasserted
  settleArmed := true
  transceiverLocked := false
  lockPollActive := false
  mpSession := none
  awaitAlloc := false
  awaitGetSource := false
  awaitDealloc := false
  reqTimers := { alloc := 0, getSource := 0, dealloc := 0 }
  connectionLabel := none
  allocResult := none
  nodePosition := none
  maxPosition := none
  fault := none
  refused := false
  refusedCode := none
  trace := [.resetLine .deasserted]

/-- The machine right after reset: the values of R47, the parameters left open (R8), nothing presented yet. -/
def State.reset : State where
  cfg := Config.params
  blk := Block.afterReset
  env := Env.silent

end Sys2Proof.Machine
end

