-- ==== Sys2Proof/Machine/Flags.lean ====
section
/-! DEFINITION. The conditions the block computes from bytes and flags. The block has no arithmetic condition
codes (10_state.md R36). -/

namespace Sys2Proof.Machine

/-- Whether a byte predicate holds of `s`. -/
def holds (p : BytePred) (s : Byte) : Bool :=
  match p with
  | .anySet mask => s &&& mask != 0
  | .table bits => bits.getLsbD s.toNat

/-- The value a clearing read-modify-write writes: `v AND (NOT m)` (41_register_transport.md R112). -/
def clearBits (v m : Byte) : Byte := v &&& ~~~m

/-- The value a setting read-modify-write writes: `v OR m` (R113). -/
def setBits (v m : Byte) : Byte := v ||| m

/-- `LockLossCondition(f)`: the lock-active bit is set, the device is not the bus master, and it was previously
considered locked (44_lock_monitor.md R202). -/
def lockLossCondition (P : Params) (locked : Bool) (f : Byte) : Bool :=
  f &&& P.mLockActive != 0 && !P.isMaster && locked

/-- Both lock-status bytes indicate locked, under the polarity (R204). -/
def bothLocked (P : Params) (p q : Byte) : Bool :=
  match P.lockPolarity with
  | .lockedWhenClear => p &&& P.mPll == 0 && q &&& P.mFreq == 0
  | .lockedWhenSet => p &&& P.mPll == P.mPll && q &&& P.mFreq == P.mFreq

/-- The interrupt reasons (42_interrupt_dispatch.md R131). -/
inductive Reason where
  | rx
  | err
  | tx
  | nc
  deriving DecidableEq, Repr, Inhabited

/-- The branch a status byte selects: RX over ERR over TX over NC, none when no pattern matches (R131). -/
def reasonOf (P : Params) (s : Byte) : Option Reason :=
  if holds P.matchRx s then some .rx
  else if holds P.matchErr s then some .err
  else if holds P.matchTx s then some .tx
  else if holds P.matchNc s then some .nc
  else none

/-- `C_k`: reason k's bit in the control register (R139). -/
def reasonMask (P : Params) : Reason → Byte
  | .rx => P.cRx
  | .err => P.cErr
  | .tx => P.cTx
  | .nc => P.cNc

/-- The value `ClearReason(k)` writes back for a control byte `v` (R139). -/
def clearedReason (P : Params) (k : Reason) (v : Byte) : Byte :=
  match P.clrPolarity with
  | .writeZero => clearBits v (reasonMask P k)
  | .writeOne => setBits v (reasonMask P k)

/-- The value `ReenableRx()` writes back for a byte `v` of REG_RBE (R133). -/
def reenabled (P : Params) (v : Byte) : Byte :=
  match P.rbePolarity with
  | .set => setBits v P.mRbe
  | .clear => clearBits v P.mRbe

/-- The request the transmitted branch resolves: the first set flag in the order ALLOC, GETSRC, DEALLOC
(R135). -/
def pendingRequest (b : Block) : Option ReqKind :=
  if b.awaitAlloc then some .alloc
  else if b.awaitGetSource then some .getSource
  else if b.awaitDealloc then some .dealloc
  else none

end Sys2Proof.Machine
end

