-- ==== Sys2Proof/Machine/Operands.lean ====
section
/-! DEFINITION. The frame layouts and their fields: the outbound slot (30_encoding.md R92, R93), the inbound buffer
(R94 to R97), the chunks of a multi-part payload (43_frame_codec.md R167), and the mailbox results
(45_request_tracking.md R223, R226). -/

namespace Sys2Proof.Machine

/-- The telegram byte: `(telegramId << 4) OR len` (R93). -/
def telegramByte (tid : Nibble) (len : Nat) : Byte := (tid.setWidth 8 <<< 4) ||| BitVec.ofNat 8 len

/-- The width of the outbound data area (R92). -/
abbrev slotData : Nat := 12

/-- `BuildFrame(h, tid, d)`: the 21-byte slot (43_frame_codec.md R163). -/
def buildFrame (P : Params) (h : Header) (tid : Nibble) (d : List Byte) : List Byte :=
  let word := packFnOp h.fn h.op
  [P.txStartByte, P.txReservedByte, h.tH, h.tL, h.fb, h.inst, hiByte word, loByte word,
    telegramByte tid d.length] ++ d ++ List.replicate (slotData - d.length) 0

/-- Byte `i` of a buffer. Every buffer the block indexes is long enough (log 18). -/
def byteAt (b : List Byte) (i : Nat) : Byte := b.getD i 0

/-- `DecodeFrame(b)` of a 20-byte buffer (R95, R96, R175). -/
def decodeFrame (P : Params) (b : List Byte) : RxMessage where
  sourceAddressHigh := byteAt b 1
  sourceAddressLow := byteAt b 2
  fBlockId := byteAt b 3
  instanceId := byteAt b 4
  functionId := ((byteAt b 5).setWidth 12 <<< 4) ||| ((byteAt b 6).extractLsb' 4 4).setWidth 12
  opType := (byteAt b 6).extractLsb' 0 4
  telegramId := (byteAt b 7).extractLsb' 4 4
  telegramLen := (byteAt b 7).extractLsb' 0 4
  payload := if holds P.isExtended (byteAt b 0) then (b.drop 8).take 11 else (b.drop 8).take 12

/-- The most payload bytes a chunk holds (R9). -/
abbrev chunkBytes : Nat := 11

/-- A continuation chunk: its data bytes, its telegram id, and what remains after it (R167). -/
structure Chunk where
  data : List Byte
  tid : Nibble
  rest : List Byte
  deriving DecidableEq, Repr

/-- `NextChunk(ses)` (R167): the sequence prefix and at most 11 bytes; id 3 if it empties the payload, else 2. -/
def nextChunk (ses : Session) : Chunk :=
  let rest := ses.remaining.drop chunkBytes
  { data := ses.seq :: ses.remaining.take chunkBytes
    tid := if rest = [] then 3 else 2
    rest := rest }

/-- The session after a chunk: none after the terminal one, otherwise with the counter incremented modulo 256
(R169, R173). -/
def sessionAfter (ses : Session) : Option Session :=
  let c := nextChunk ses
  if c.tid = 3 then none else some { ses with remaining := c.rest, seq := ses.seq + 1 }

/-- The answer code of an allocation (R223, R231). -/
def allocAnswer (c : Byte) : AllocAnswer :=
  if c = 1 then .grant
  else if c = 2 then .busy
  else if c = 3 then .deny
  else if c = 4 then .wrongTarget
  else .error

/-- `AllocDecode(p)` of a mailbox payload (R223). -/
def allocDecode (P : Params) (p : List Byte) : AllocationResult :=
  let answer := allocAnswer (byteAt p P.allocLayout.answer.val)
  { channelLocations :=
      { ch0 := byteAt p P.allocLayout.ch0.val
        ch1 := byteAt p P.allocLayout.ch1.val
        ch2 := byteAt p P.allocLayout.ch2.val
        ch3 := byteAt p P.allocLayout.ch3.val }
    connectionLabel := byteAt p P.allocLayout.label.val
    answer := answer
    freeChannels := if answer = .error then 0 else byteAt p 1 }

/-- The answer a code has in a deallocation map; Error for a code it does not list. -/
def lookupDealloc : DeallocCodeMap → Byte → DeallocAnswer
  | [], _ => .error
  | (c, a) :: more, x => if x = c then a else lookupDealloc more x

/-- The deallocation answer of a mailbox payload (R222, R226). -/
def deallocAnswer (P : Params) (p : List Byte) : DeallocAnswer :=
  lookupDealloc P.deallocCodeMap (byteAt p P.deallocAnswerIndex.val)

/-- The number of a refusal code (60_exceptions.md R242). -/
def refusalNumber : RefusalCode → Byte
  | .unknownOpcode => 0x81
  | .malformed => 0x82
  | .fieldRange => 0x83
  | .state => 0x84
  | .notEnabled => 0x85

/-- The number of a fault code (R240). -/
def faultNumber : FaultCode → Byte
  | .transport => 0x01
  | .mpOverlap => 0x02

end Sys2Proof.Machine
end

