-- ==== Sys2Proof/Machine/Ops.lean ====
section
/-! DEFINITION. The named operations over the state: the primitives of 00_scope.md R12, the timers of 10_state.md
R35, the two register accesses of 20_memory.md R63 and R64, and taking a fault or a refusal (60_exceptions.md R240,
R242).

An operation that can end the step early takes what follows it as its last argument but one, `k`: a fault or a
refusal does not call `k`, so nothing after it in the step happens and what came before it is kept (R114). -/

namespace Sys2Proof.Machine

/-- What a meaning and a step answer. -/
abbrev Outcome := Host.Outcome State Fault Refusal

/-- Change the block's fields. -/
def onBlock (f : Block → Block) (s : State) : State := { s with blk := f s.blk }

/-- `Emit(e)` appends `e` to the trace (R41). -/
def emit (e : Event) (s : State) : State := { s with blk := { s.blk with trace := s.blk.trace ++ [e] } }

/-- `raise Fault(code)`: the block's one way of taking an exception. It records the code and enters Fatal; the
step ends (60_exceptions.md R240, R248). -/
def raiseFault (code : FaultCode) (s : State) : State :=
  { s with blk := { s.blk with fault := some code, bringup := .fatal } }

/-- `refuse(code)`: the sticky mark, and the first code (R242). -/
def refuse (code : RefusalCode) (s : State) : State :=
  { s with blk := { s.blk with
      refused := true
      refusedCode := if s.blk.refused then s.blk.refusedCode else some code } }

/-- In Fatal no stimulus has a step (R241); otherwise the step is `f`. -/
def unlessFatal (f : State → State) (s : State) : Outcome :=
  if s.blk.bringup = .fatal then .fault .noStepInFatal else .next (f s)

/-! ### Timers -/

/-- The two timers that are armed or not (R34). -/
inductive Timer where
  | settle
  | lockPoll
  deriving DecidableEq, Repr

/-- `arm(SETTLE)` and `arm(LOCK_POLL)` (R35). -/
def arm (t : Timer) (s : State) : State :=
  match t with
  | .settle => { s with blk := { s.blk with settleArmed := true } }
  | .lockPoll => { s with blk := { s.blk with lockPollActive := true } }

/-- `disarm(SETTLE)` and `disarm(LOCK_POLL)` (R35). -/
def disarm (t : Timer) (s : State) : State :=
  match t with
  | .settle => { s with blk := { s.blk with settleArmed := false } }
  | .lockPoll => { s with blk := { s.blk with lockPollActive := false } }

/-- `st.reqTimers[k]`. -/
def reqCount (t : ReqTimers) : ReqKind → Nat
  | .alloc => t.alloc
  | .getSource => t.getSource
  | .dealloc => t.dealloc

/-- `st.reqTimers[k] <- n`. -/
def setReqCount (t : ReqTimers) (k : ReqKind) (n : Nat) : ReqTimers :=
  match k with
  | .alloc => { t with alloc := n }
  | .getSource => { t with getSource := n }
  | .dealloc => { t with dealloc := n }

/-- `arm(REQ[k])` (R35). -/
def armReq (k : ReqKind) (s : State) : State :=
  { s with blk := { s.blk with
      reqTimers := setReqCount s.blk.reqTimers k (reqCount s.blk.reqTimers k + 1) } }

/-- The expiry of one `REQ[k]` timer (R35). -/
def expireReq (k : ReqKind) (s : State) : State :=
  { s with blk := { s.blk with
      reqTimers := setReqCount s.blk.reqTimers k (reqCount s.blk.reqTimers k - 1) } }

/-! ### The await flags -/

/-- `await[k]`. -/
def awaiting (b : Block) : ReqKind → Bool
  | .alloc => b.awaitAlloc
  | .getSource => b.awaitGetSource
  | .dealloc => b.awaitDealloc

/-- The block with `await[k] <- v`. -/
def withAwait (b : Block) (k : ReqKind) (v : Bool) : Block :=
  match k with
  | .alloc => { b with awaitAlloc := v }
  | .getSource => { b with awaitGetSource := v }
  | .dealloc => { b with awaitDealloc := v }

/-- `await[k] <- v`. -/
def setAwait (k : ReqKind) (v : Bool) (s : State) : State := { s with blk := withAwait s.blk k v }

/-! ### The register bus -/

/-- How many bytes the chip answers an access with: the count of a read, the one receive byte of a write. -/
def accessWidth : Access → Nat
  | .read _ n => n.toNat
  | .write _ _ => 1

/-- The bytes of an answer: those the chip gives, and a free value for each one it leaves out (log 2). -/
def answerBytes (acc : Access) (s : State) (data : List Byte) : List Byte :=
  (List.range (accessWidth acc)).map fun i =>
    data.getD i (Config.chipByte s.env.draws s.blk.trace acc i)

/-- The chip's answer to an access, a draw (20_memory.md R62): none is a bus error. -/
def busReply (acc : Access) (s : State) : Option (List Byte) :=
  match s.env.replies with
  | .error :: _ => none
  | .ok data :: _ => some (answerBytes acc s data)
  | [] => if Config.busFails s.env.draws s.blk.trace acc then none else some (answerBytes acc s [])

/-- The chip's answer is used up. -/
def takeReply (s : State) : State :=
  { s with env := { s.env with replies := s.env.replies.tail, draws := s.env.draws + 1 } }

/-- `MemRead(a, n)` and then `k` of the bytes read (20_memory.md R63). -/
def memRead (a n : Byte) (k : List Byte → State → State) (s : State) : State :=
  if burstInBounds a n then
    match busReply (.read a n) s with
    | none => raiseFault .transport (takeReply s)
    | some data => k data (emit (.regRead a n data) (takeReply s))
  else refuse .fieldRange s

/-- `MemRead(a, 1)[0]` and then `k` of the byte. -/
def memReadByte (a : Byte) (k : Byte → State → State) : State → State :=
  memRead a 1#8 fun data => k (byteAt data 0)

/-- `MemWrite(a, 1, v)` and then `k` of the prior receive byte (R64). -/
def memWrite (a v : Byte) (k : Byte → State → State) (s : State) : State :=
  match busReply (.write a v) s with
  | none => raiseFault .transport (takeReply s)
  | some data => k (byteAt data 0) (emit (.regWrite a v (byteAt data 0)) (takeReply s))

/-- `RMWClr(a, m)` and then `k` (41_register_transport.md R112). -/
def rmwClr (a m : Byte) (k : State → State) : State → State :=
  memReadByte a fun v => memWrite a (clearBits v m) fun _ => k

/-- `RMWSet(a, m)` and then `k` (R113). -/
def rmwSet (a m : Byte) (k : State → State) : State → State :=
  memReadByte a fun v => memWrite a (setBits v m) fun _ => k

/-- `ClearReason(r)` and then `k` (42_interrupt_dispatch.md R139). -/
def clearReason (r : Reason) (k : State → State) (s : State) : State :=
  match s.cfg.clrPolarity with
  | .writeZero => rmwClr s.cfg.regCtrl (reasonMask s.cfg r) k s
  | .writeOne => rmwSet s.cfg.regCtrl (reasonMask s.cfg r) k s

/-! ### Draws of the EITHER policies -/

/-- What the next draw of NC_POSITION = EITHER answers, true for READ (R137). -/
def ncDraw (s : State) : Bool :=
  match s.env.ncDraws with
  | d :: _ => d
  | [] => Config.ncReads s.env.draws s.blk.trace

/-- The draw of NC_POSITION = EITHER is used up. -/
def takeNcDraw (s : State) : State :=
  { s with env := { s.env with ncDraws := s.env.ncDraws.tail, draws := s.env.draws + 1 } }

/-- What the next draw of MP_GATE_POLICY = EITHER answers (43_frame_codec.md R171). -/
def gateDraw (s : State) : GateArm :=
  match s.env.gateDraws with
  | d :: _ => d
  | [] => Config.gateArm s.env.draws s.blk.trace

/-- The draw of MP_GATE_POLICY = EITHER is used up. -/
def takeGateDraw (s : State) : State :=
  { s with env := { s.env with gateDraws := s.env.gateDraws.tail, draws := s.env.draws + 1 } }

/-! ### Taking a stimulus from the program -/

/-- The decoded stimulus is presented: the program goes on with `rest` (30_encoding.md R80). -/
def present (rest : List Byte) (s : State) : State :=
  { s with env := { s.env with
      program := rest
      consumed := s.env.consumed + (s.env.program.length - rest.length) } }

/-- A decode refusal: the mark is set and the run ends at the stimulus's offset (60_exceptions.md R242, R243). -/
def endRun (code : RefusalCode) (s : State) : State :=
  let t := refuse code s
  { t with env := { t.env with ended := some (code, t.env.consumed) } }

/-- Decode the next stimulus and execute it with `run`. With no byte left the run has ended (70_reset_and_hazards.md
R287(a)). -/
def runNext (run : Instr → State → Outcome) (s : State) : Outcome :=
  match s.env.program with
  | [] => .refused .noStimulus
  | _ :: _ =>
    match decode s.env.program with
    | .ok (i, rest) => run i (present rest s)
    | .error code => .next (endRun code s)

/-- The precedence of R243: in Fatal there is no step; after a decode refusal the run has ended; otherwise the next
stimulus. -/
def stepWith (run : Instr → State → Outcome) (s : State) : Outcome :=
  if s.blk.bringup = .fatal then .fault .noStepInFatal
  else if s.env.ended.isSome then .refused .runEnded
  else runNext run s

/-- The state with the bytes `bytes` as its program and the run not ended: what the next step fetches. -/
def loadProgram (bytes : List Byte) (s : State) : State :=
  { s with env := { s.env with program := bytes, ended := none } }

end Sys2Proof.Machine
end

