-- ==== Sys2Proof/Machine/Lock.lean ====
section
/-! DEFINITION. U5, the PLL and lock-loss detector (44_lock_monitor.md R200 to R208). -/

namespace Sys2Proof.Machine

/-- `st.transceiverLocked <- v`. -/
def setLocked (v : Bool) (s : State) : State := { s with blk := { s.blk with transceiverLocked := v } }

/-- `LockLoss()` (R203): the error reason is not cleared here. -/
def lockLoss (s : State) : State := arm .lockPoll (emit .unlocked (setLocked false s))

/-- `LockFault()`, the fault parse (R200, R201, R208). -/
def lockFault (s : State) : State :=
  memReadByte s.cfg.regFault
    (fun f s =>
      if lockLossCondition s.cfg s.blk.transceiverLocked f then lockLoss s
      else clearReason .err id s)
    s

/-- `LockEval()` and then `k` of its answer: both registers are always read, PLL first (R204). -/
def lockEval (k : Bool → State → State) (s : State) : State :=
  memReadByte s.cfg.regPll
    (fun p => memReadByte s.cfg.regFreq fun q => k (bothLocked s.cfg p q))
    s

/-- `Relock()` (R205): `Locked` is emitted first, the flag is set only after the error reason is cleared. -/
def relock (s : State) : State :=
  clearReason .err (fun s => disarm .lockPoll (setLocked true s)) (emit .locked s)

/-- `BringupLockCheck()` (R207). -/
def bringupLockCheck : State → State :=
  lockEval fun locked s =>
    if locked then relock s
    else if s.cfg.bringupStartsPoll then arm .lockPoll s
    else s

/-- `TICK_LOCK_POLL` after the Fatal check (R206): the poll stays armed when there is no lock. -/
def tickLockPoll (s : State) : State :=
  if s.blk.bringup = .off then refuse .state s
  else if s.blk.lockPollActive = false then refuse .notEnabled s
  else lockEval (fun locked s => if locked then relock s else s) s

/-- TICK_LOCK_POLL (R206). -/
def execTickLockPoll (s : State) : Outcome := unlessFatal tickLockPoll s

end Sys2Proof.Machine
end

