-- ==== Sys2Proof/Machine/Requests.lean ====
section
/-! DEFINITION. The outstanding-request flags, their timeouts, the mailbox results and the position getters
(45_request_tracking.md R220 to R229). -/

namespace Sys2Proof.Machine

/-- `ReqArm(k)` (R220). -/
def armRequest (k : ReqKind) (s : State) : State := armReq k (setAwait k true s)

/-- `REQ_ARM k` after the Fatal check (R220, R226). -/
def reqArm (k : ReqKind) (s : State) : State :=
  if s.blk.bringup ≠ .operational then refuse .state s
  else if k = .dealloc ∧ s.blk.connectionLabel = none then emit (.log .deallocNoLabel) s
  else armRequest k s

/-- `TICK_REQ k` after the Fatal check (R221): nothing is emitted, no register is touched. -/
def tickReq (k : ReqKind) (s : State) : State :=
  if s.blk.bringup = .off then refuse .state s
  else if reqCount s.blk.reqTimers k = 0 then refuse .notEnabled s
  else setAwait k false (expireReq k s)

/-- `st.allocResult <- r` and `st.connectionLabel <- r.connectionLabel`, "regardless of answer" (R222). -/
def recordAlloc (r : AllocationResult) (s : State) : State :=
  { s with blk := { s.blk with allocResult := some r, connectionLabel := some r.connectionLabel } }

/-- A Grant clears the label; every other answer leaves it (R222, R226). -/
def recordDealloc (a : DeallocAnswer) (s : State) : State :=
  if a = .grant then { s with blk := { s.blk with connectionLabel := none } } else s

/-- The result of kind `k` from the mailbox `mb` (R222, R223, R226, R228). -/
def resolveWith (k : ReqKind) (mb : List Byte) (s : State) : State :=
  match k with
  | .alloc =>
    let r := allocDecode s.cfg (decodeFrame s.cfg mb).payload
    emit (.allocResult r) (recordAlloc r s)
  | .getSource => emit (.remoteSourceResult mb) s
  | .dealloc =>
    let a := deallocAnswer s.cfg (decodeFrame s.cfg mb).payload
    emit (.deallocResult { answer := a }) (recordDealloc a s)

/-- `ResolveRequest(k)` and then `next` (R222): the armed timeout is not cancelled. -/
def resolveRequest (k : ReqKind) (next : State → State) (s : State) : State :=
  memRead s.cfg.regMbox 20#8 (fun mb s => next (resolveWith k mb (setAwait k false s))) s

/-- `GET_NODE_POS` after the Fatal check (R224). -/
def getNodePos (s : State) : State :=
  if s.blk.bringup = .off then refuse .state s
  else emit (.hostReturn (.position s.blk.nodePosition)) s

/-- `GET_MAX_POS` after the Fatal check (R225). -/
def getMaxPos (s : State) : State :=
  if s.blk.bringup = .off then refuse .state s
  else emit (.hostReturn (.position s.blk.maxPosition)) s

/-- REQ_ARM (R220). -/
def execReqArm (k : ReqKind) (s : State) : Outcome := unlessFatal (reqArm k) s

/-- TICK_REQ (R221). -/
def execTickReq (k : ReqKind) (s : State) : Outcome := unlessFatal (tickReq k) s

/-- GET_NODE_POS (R224). -/
def execGetNodePos (s : State) : Outcome := unlessFatal getNodePos s

/-- GET_MAX_POS (R225). -/
def execGetMaxPos (s : State) : Outcome := unlessFatal getMaxPos s

end Sys2Proof.Machine
end

