-- ==== Sys2Proof/Machine/Bringup.lean ====
section
/-! DEFINITION. The bring-up sequencer: RESET, TICK_SETTLE and the first interrupt (70_reset_and_hazards.md R270 to
R274). -/

namespace Sys2Proof.Machine

/-- `RESET` after the Fatal check (R270): it writes every field but the fault, the refusal mark and the trace. -/
def resetBlock (s : State) : State :=
  arm .settle (emit (.resetLine .deasserted)
    { s with blk := { s.blk with
        bringup := .resetting
        irqArmed := .none
        transceiverLocked := false
        lockPollActive := false
        mpSession := none
        awaitAlloc := false
        awaitGetSource := false
        awaitDealloc := false
        reqTimers := { alloc := 0, getSource := 0, dealloc := 0 }
        connectionLabel := none
        allocResult := none
        nodePosition := none
        maxPosition := none
        resetLine := .deasserted } })

/-- `TICK_SETTLE` after the Fatal check (R271). -/
def tickSettle (s : State) : State :=
  if s.blk.bringup = .off then refuse .state s
  else if s.blk.settleArmed = false then refuse .notEnabled s
  else
    onBlock (fun b => { b with irqArmed := .oneShot, bringup := .awaitingFirstInterrupt })
      (emit (.resetLine .asserted)
        (onBlock (fun b => { b with resetLine := .asserted }) (disarm .settle s)))

/-- The configuration table, one write per pair in list order, and then `k` (R272, R273). -/
def writeTable : List (Byte × Byte) → (State → State) → State → State
  | [], k => k
  | (a, v) :: more, k => memWrite a v fun _ => writeTable more k

/-- The label of the bring-up broadcast (R274). -/
abbrev broadcastLabel : Byte := 0x7F#8

/-- `SecondaryStep()` (R274). -/
def secondaryStep (s : State) : State :=
  bringupLockCheck (emit (.allocPortReq .deallocAll broadcastLabel) (armRequest .dealloc s))

/-- `FirstInterrupt()`: the whole of Configuring (R272). The status register is not read. -/
def firstInterrupt (s : State) : State :=
  writeTable s.cfg.configTable
    (fun s => secondaryStep
      (onBlock (fun b => { b with irqArmed := .steadyState, bringup := .operational }) s))
    (onBlock (fun b => { b with irqArmed := .none, bringup := .configuring }) s)

/-- RESET (R270). -/
def execReset (s : State) : Outcome := unlessFatal resetBlock s

/-- TICK_SETTLE (R271). -/
def execTickSettle (s : State) : Outcome := unlessFatal tickSettle s

end Sys2Proof.Machine
end

