-- ==== Sys2Proof/Machine/Codec.lean ====
section
/-! DEFINITION. U3 and U4, the frame codec and the telegram buffer of depth zero: SEND, the multi-part session and
the delivery of inbound frames (43_frame_codec.md R160 to R180). -/

namespace Sys2Proof.Machine

/-- `st.mpSession <- x`. -/
def setSession (x : Option Session) (s : State) : State := { s with blk := { s.blk with mpSession := x } }

/-- Hand a frame to the chip (R176). -/
def sendFrame (h : Header) (tid : Nibble) (d : List Byte) (s : State) : State :=
  emit (.frameOut (buildFrame s.cfg h tid d)) s

/-- `SendSingle(h, d)` (R162). -/
def sendSingle (h : Header) (d : List Byte) : State → State := sendFrame h 0 d

/-- `StartMultiPart(h, p)` (R165, R166). -/
def startMultiPart (h : Header) (p : List Byte) (s : State) : State :=
  match s.blk.mpSession with
  | some _ => raiseFault .mpOverlap s
  | none =>
    setSession (some { hdr := h, remaining := p.drop chunkBytes, seq := 1 })
      (sendFrame h 1 (0 :: p.take chunkBytes) s)

/-- `SEND` after the Fatal check (R160): the state check, the gate (R161), then one frame or a session. A payload
no SEND stimulus can carry is out of range (R86, log 12). -/
def sendRequest (req : TxRequest) (s : State) : State :=
  if maxPayload < req.payload.length then refuse .fieldRange s
  else if s.blk.bringup = .off then refuse .state s
  else if s.blk.transceiverLocked = false then emit (.log .dropUnlocked) s
  else if req.payload.length ≤ slotData then sendSingle req.hdr req.payload s
  else startMultiPart req.hdr req.payload s

/-- One arm of `MpGated(ses)` (R171). -/
def gatedArm (arm : GateArm) (ses : Session) (s : State) : State :=
  match arm with
  | .advance => setSession (sessionAfter ses) (emit (.log .mpChunkDropped) s)
  | .hold => emit (.log .dropUnlocked) s
  | .abort => emit (.log .mpAborted) (setSession none s)

/-- `MpGated(ses)`: a continuation due while unlocked (R171). -/
def mpGated (ses : Session) (s : State) : State :=
  match s.cfg.mpGatePolicy with
  | .fixed arm => gatedArm arm ses s
  | .either => gatedArm (gateDraw s) ses (takeGateDraw s)

/-- `MpContinue()` (R169, R170). -/
def mpContinue (s : State) : State :=
  match s.blk.mpSession with
  | none => s
  | some ses =>
    if s.blk.transceiverLocked = false then mpGated ses s
    else
      setSession (sessionAfter ses)
        (sendFrame ses.hdr (nextChunk ses).tid (nextChunk ses).data s)

/-- `Deliver(m)` (R180): every inbound frame is delivered at once, whatever its telegram id (R179). -/
def deliver (m : RxMessage) : State → State := emit (.mostMessageRx m)

/-- SEND (R160). -/
def execSend (req : TxRequest) (s : State) : Outcome := unlessFatal (sendRequest req) s

end Sys2Proof.Machine
end

