-- ==== Sys2Proof/Machine/Interrupt.lean ====
section
/-! DEFINITION. U2, the interrupt dispatch multiplexer (42_interrupt_dispatch.md R130 to R142). -/

namespace Sys2Proof.Machine

/-- `ReenableRx()` (R133). -/
def reenableRx (s : State) : State :=
  match s.cfg.rbePolarity with
  | .set => rmwSet s.cfg.regRbe s.cfg.mRbe id s
  | .clear => rmwClr s.cfg.regRbe s.cfg.mRbe id s

/-- `RxBranch()` (R132): read, decode, deliver, clear the reason, re-enable. -/
def rxBranch (s : State) : State :=
  memRead s.cfg.regRxBuf 20#8
    (fun b s => clearReason .rx reenableRx (deliver (decodeFrame s.cfg b) s))
    s

/-- `ErrBranch()` (R134). -/
def errBranch : State → State := lockFault

/-- The end of every transmitted branch: `MessageSent`, then the continuation in the same step (R136). -/
def messageSent (s : State) : State := mpContinue (emit .messageSent s)

/-- At most one pending request is resolved, then `MessageSent` (R135). -/
def resolvePending (s : State) : State :=
  match pendingRequest s.blk with
  | some k => resolveRequest k messageSent s
  | none => messageSent s

/-- `TxBranch()` (R135). -/
def txBranch : State → State := clearReason .tx resolvePending

/-- The positions read by the network-changed branch (R137). -/
def readPositions (s : State) : State :=
  memReadByte s.cfg.regNpr
    (fun p s => memReadByte s.cfg.regMpr
      (fun mx s =>
        emit (.positionUpdate p mx)
          (onBlock (fun b => { b with nodePosition := some p, maxPosition := some mx }) s))
      s)
    s

/-- Whether the positions are read, by NC_POSITION (R137). -/
def ncPositions (s : State) : State :=
  match s.cfg.ncPosition with
  | .none => s
  | .read => readPositions s
  | .either => if ncDraw s then readPositions (takeNcDraw s) else takeNcDraw s

/-- `NcBranch()` (R137). -/
def ncBranch : State → State := clearReason .nc ncPositions

/-- `UnmatchedBranch()` (R138). -/
def unmatchedBranch : State → State := emit (.log .unmatchedStatus)

/-- The branch of a status byte (R131, R140). -/
def branch : Option Reason → State → State
  | some .rx => rxBranch
  | some .err => errBranch
  | some .tx => txBranch
  | some .nc => ncBranch
  | none => unmatchedBranch

/-- `Dispatch()`: the status register is read once and one branch runs (R131). -/
def dispatch (s : State) : State :=
  memReadByte s.cfg.regStatus (fun x s => branch (reasonOf s.cfg x) s) s

/-- `IRQ` after the Fatal check (R130, R141). -/
def interrupt (s : State) : State :=
  if s.blk.bringup = .off then refuse .state s
  else
    match s.blk.irqArmed with
    | .none => emit (.log .irqIgnored) s
    | .oneShot => firstInterrupt s
    | .steadyState => dispatch s

/-- IRQ (R130). -/
def execIrq (s : State) : Outcome := unlessFatal interrupt s

end Sys2Proof.Machine
end

