-- ==== Sys2Proof/Machine/Transport.lean ====
section
/-! DEFINITION. U1, the Register Transport: the four RT_ stimuli (41_register_transport.md R110 to R117). -/

namespace Sys2Proof.Machine

/-- `HostAdmitRT()` and then `k`: admitted only in Resetting and AwaitingFirstInterrupt (R115). -/
def hostAdmitRT (k : State → State) (s : State) : State :=
  if s.blk.bringup = .resetting ∨ s.blk.bringup = .awaitingFirstInterrupt then k s
  else refuse .state s

/-- R110. -/
def rtWrite (a v : Byte) : State → State :=
  hostAdmitRT (memWrite a v fun rx => emit (.hostReturn (.byte rx)))

/-- R111: the range check comes before the admission. -/
def rtRead (a n : Byte) (s : State) : State :=
  if burstInBounds a n then
    hostAdmitRT (memRead a n fun data => emit (.hostReturn (.bytes data))) s
  else refuse .fieldRange s

/-- RT_WRITE (R110). -/
def execRtWrite (a v : Byte) (s : State) : Outcome := unlessFatal (rtWrite a v) s

/-- RT_READ (R111). -/
def execRtRead (a n : Byte) (s : State) : Outcome := unlessFatal (rtRead a n) s

/-- RT_RMWCLR (R112). -/
def execRtRmwClr (a m : Byte) (s : State) : Outcome := unlessFatal (hostAdmitRT (rmwClr a m id)) s

/-- RT_RMWSET (R113). -/
def execRtRmwSet (a m : Byte) (s : State) : Outcome := unlessFatal (hostAdmitRT (rmwSet a m id)) s

end Sys2Proof.Machine
end

