-- ==== Sys2Proof/Machine/Dispatch.lean ====
section
/-! DEFINITION. One arm per stimulus (30_encoding.md R82). -/

namespace Sys2Proof.Machine

def exec (i : Instr) (s : State) : Host.Outcome State Fault Refusal :=
  match i with
  | .reset => Sys2Proof.Machine.execReset s
  | .rtWrite a v => Sys2Proof.Machine.execRtWrite a v s
  | .rtRead a n => Sys2Proof.Machine.execRtRead a n s
  | .rtRmwClr a m => Sys2Proof.Machine.execRtRmwClr a m s
  | .rtRmwSet a m => Sys2Proof.Machine.execRtRmwSet a m s
  | .irq => Sys2Proof.Machine.execIrq s
  | .send req => Sys2Proof.Machine.execSend req s
  | .tickSettle => Sys2Proof.Machine.execTickSettle s
  | .tickLockPoll => Sys2Proof.Machine.execTickLockPoll s
  | .tickReq k => Sys2Proof.Machine.execTickReq k s
  | .reqArm k => Sys2Proof.Machine.execReqArm k s
  | .getNodePos => Sys2Proof.Machine.execGetNodePos s
  | .getMaxPos => Sys2Proof.Machine.execGetMaxPos s

end Sys2Proof.Machine
end

