-- ==== Sys2Proof/Machine/Step.lean ====
section
/-! DEFINITION. One step: the next stimulus of the program is decoded and executed (30_encoding.md R80,
60_exceptions.md R243). -/

namespace Sys2Proof.Machine

/-- One step of the block (00_scope.md R6). -/
def step (s : State) : Host.Outcome State Fault Refusal := stepWith exec s

/-- `s` with the instruction of an opcode-table row as its program, so that the next step decodes and runs it. -/
def State.withFetchWord (s : State) (nbits w : Nat) : State := loadProgram (tableBytes nbits w) s

end Sys2Proof.Machine
end

