-- ==== Sys2Proof/Safety.lean ====
section
/-! DEFINITION. The terms the claims are stated in: what the chip answers to a sequence of events, the invariants of
10_state.md R48, the well-formedness of the trace, the history of lock events (44_lock_monitor.md R209), and the states
a run can reach (70_reset_and_hazards.md R276, R287). -/

namespace Sys2Proof.Machine

/-! ### What the chip answers -/

/-- The register access an event records, with the bytes the chip answered; none for every other event. -/
def recordedAccess : Event → Option (Access × List Byte)
  | .regRead a n data => some (.read a n, data)
  | .regWrite a v rx => some (.write a v, [rx])
  | _ => none

/-- The state after one event: it is appended to the trace, and the chip's answer is used up if it records an
access. -/
def follow (e : Event) (s : State) : State :=
  if (recordedAccess e).isSome then emit e (takeReply s) else emit e s

/-- The state after a sequence of events, oldest first. Only the trace, `replies` and `draws` change. -/
def played : List Event → State → State
  | [], s => s
  | e :: es, s => played es (follow e s)

/-- Whether the chip answers the accesses of the sequence with the bytes recorded in it, in order, from `s` on. -/
def chipPlays : List Event → State → Bool
  | [], _ => true
  | e :: es, s =>
    (match recordedAccess e with
      | some (acc, data) => busReply acc s == some data
      | none => true) && chipPlays es (follow e s)

/-- The events of a clearing of reason `r`, the control register reading `v` (42_interrupt_dispatch.md R139). -/
def clearEvents (P : Params) (r : Reason) (v rx : Byte) : List Event :=
  [.regRead P.regCtrl 1#8 [v], .regWrite P.regCtrl (clearedReason P r v) rx]

/-- The write events of a configuration table, `rxs` the receive bytes (R273). -/
def tableEvents : List (Byte × Byte) → List Byte → List Event
  | (a, v) :: more, rx :: rxs => .regWrite a v rx :: tableEvents more rxs
  | _, _ => []

/-- The events of a LockEval that reads `p` and `q` (R204). -/
def evalEvents (P : Params) (p q : Byte) : List Event :=
  [.regRead P.regPll 1#8 [p], .regRead P.regFreq 1#8 [q]]

/-- The events of a lock check or a lock poll whose registers read `p` and `q`: with lock, those of the relock follow, but
for the lock state it sets after them (R204 to R207). -/
def checkEvents (P : Params) (p q v rx : Byte) : List Event :=
  evalEvents P p q ++ if bothLocked P p q then .locked :: clearEvents P .err v rx else []

/-- A marked refusal of the block (60_exceptions.md R242). -/
def markRefused (code : RefusalCode) (b : Block) : Block :=
  { b with refused := true, refusedCode := if b.refused then b.refusedCode else some code }

/-- The block in Fatal with a fault code (60_exceptions.md R240). -/
def markFault (code : FaultCode) (b : Block) : Block :=
  { b with fault := some code, bringup := .fatal }

/-- The steady-state handler services an interrupt: neither Off nor Fatal, and `irqArmed = SteadyState` (R130). -/
def serving (s : State) : Bool :=
  s.blk.bringup != .off && s.blk.bringup != .fatal && s.blk.irqArmed == .steadyState

/-- The one-shot watch takes the next interrupt (R130, 70_reset_and_hazards.md R272). -/
def watching (s : State) : Bool :=
  s.blk.bringup != .off && s.blk.bringup != .fatal && s.blk.irqArmed == .oneShot

/-- The four register-transport stimuli with operands in range (41_register_transport.md R110 to R113). -/
def isRegisterTransport : Instr → Bool
  | .rtWrite _ _ => true
  | .rtRead a n => burstInBounds a n
  | .rtRmwClr _ _ => true
  | .rtRmwSet _ _ => true
  | _ => false

/-- The stimuli no rule of which accesses a register (60_exceptions.md R240 lists the others). -/
def isBusFree : Instr → Bool
  | .reset => true
  | .send _ => true
  | .tickSettle => true
  | .tickReq _ => true
  | .reqArm _ => true
  | .getNodePos => true
  | .getMaxPos => true
  | _ => false

/-- The timer stimulus is enabled: its timer is armed (30_encoding.md R81). -/
def timerEnabled (b : Block) : Instr → Bool
  | .tickSettle => b.settleArmed
  | .tickLockPoll => b.lockPollActive
  | .tickReq k => decide (0 < reqCount b.reqTimers k)
  | _ => true

/-- `o` is what R114 says of a failed access among the events `evs` of a step, played from `u` on: whichever access of
them the chip fails, the step ends there in Fatal with FATAL_TRANSPORT; the events before the access are in the trace,
no later one is, and every field of the block is as `u` has it. -/
def StopsAtFailure (evs : List Event) (u : State) (o : Outcome) : Prop :=
  ∀ (pre post : List Event) (e : Event) (acc : Access) (data : List Byte),
    evs = pre ++ e :: post → recordedAccess e = some (acc, data) →
    chipPlays pre u = true → busReply acc (played pre u) = none →
    o = .next (onBlock (markFault .transport) (takeReply (played pre u)))

/-! ### Invariants -/

/-- No fault so far: "A claim about the block takes `st.fault = none` as a premise" (R241). -/
def noFault (s : State) : Bool := s.blk.fault.isNone

/-- The invariants of the block. The letters are those of R48; the last four are what makes them inductive and what
R22 and R33 say. -/
structure BlockInv (b : Block) : Prop where
  /-- R48(a) -/
  session_operational : b.bringup ≠ .fatal → b.mpSession ≠ none → b.bringup = .operational
  /-- R48(b) -/
  fatal_iff_fault : b.bringup = .fatal ↔ b.fault ≠ none
  /-- R48(c) -/
  steady_iff_operational : b.bringup ≠ .fatal → (b.irqArmed = .steadyState ↔ b.bringup = .operational)
  /-- R48(d) -/
  oneShot_iff_awaiting : b.bringup ≠ .fatal → (b.irqArmed = .oneShot ↔ b.bringup = .awaitingFirstInterrupt)
  /-- R48(e) -/
  settle_resetting : b.bringup ≠ .fatal → b.settleArmed = true → b.bringup = .resetting
  /-- R48(f) -/
  poll_unlocked : b.lockPollActive = true → b.transceiverLocked = false
  /-- R48(g) -/
  session_nonempty : ∀ ses, b.mpSession = some ses → ses.remaining ≠ []
  /-- R22: no stimulus observes Configuring -/
  never_configuring : b.bringup ≠ .configuring
  /-- the lock is found only in Operational -/
  locked_operational : b.bringup ≠ .fatal → b.transceiverLocked = true → b.bringup = .operational
  /-- the lock poll runs only in Operational -/
  poll_operational : b.bringup ≠ .fatal → b.lockPollActive = true → b.bringup = .operational
  /-- R33: the mark and the first code go together -/
  refused_iff_code : b.refused = true ↔ b.refusedCode ≠ none

/-- The shape of one event: a slot of 21 bytes (R92), a read that answers its count within the bounds (R63), a mailbox
of 20 bytes (R98), a payload of 11 or 12 bytes (R96), the one broadcast (R274), and no Shutdown (R257). -/
def eventWf : Event → Bool
  | .frameOut f => decide (f.length = 21)
  | .regRead a n data => burstInBounds a n && decide (data.length = n.toNat)
  | .remoteSourceResult mb => decide (mb.length = 20)
  | .mostMessageRx m => decide (m.payload.length = 11) || decide (m.payload.length = 12)
  | .allocPortReq _ label => label == broadcastLabel
  | .shutdown => false
  | _ => true

/-- Every event of the trace has its shape. -/
def TraceWf (s : State) : Prop := s.blk.trace.all eventWf = true

/-- One event against the lock state the events so far say: `Locked` from unlocked, `Unlocked` from locked, none for
the two events that would repeat one; a RESET starts again from unlocked. -/
def lockEvent (now : Option Bool) (e : Event) : Option Bool :=
  match now, e with
  | some false, .locked => some true
  | some true, .unlocked => some false
  | some true, .locked => none
  | some false, .unlocked => none
  | some _, .resetLine .deasserted => some false
  | now, _ => now

/-- What the lock events of a trace say, none if two of them do not alternate between RESETs (R209, log 17). -/
def lockHistory (trace : List Event) : Option Bool := trace.foldl lockEvent (some false)

/-- The lock events alternate, and the last one says what `transceiverLocked` is; in Fatal a `Locked` may be in the
trace before the flag was set (R205). -/
def LockHistoryInv (s : State) : Prop :=
  ∃ l, lockHistory s.blk.trace = some l ∧ (s.blk.bringup ≠ .fatal → s.blk.transceiverLocked = l)

/-- A state some run reaches: any launch parameters, any reset-line level at launch, any outside world, then steps. -/
inductive Reachable : State → Prop where
  | launch (P : Params) (line : ResetLevel) (env : Env) : Reachable { cfg := P, blk := Block.launch line, env := env }
  | step {s t : State} : Reachable s → Sys2Proof.Machine.step s = .next t → Reachable t

/-! ### Multi-part transmission -/

/-- The frames of the trace (R176). -/
def frames (trace : List Event) : List (List Byte) :=
  trace.filterMap fun e =>
    match e with
    | .frameOut f => some f
    | _ => none

/-- `n` continuations, each after its own `MessageSent` (R169). -/
def continuations : Nat → State → State
  | 0, s => s
  | n + 1, s => continuations n (messageSent s)

/-- How many chunks a payload of length `len` has: `ceil(len / 11)` (R172). -/
def chunkCount (len : Nat) : Nat := (len + 10) / 11

/-- The frame that carries chunk `i` of a multi-part payload (R172). -/
def chunkFrame (P : Params) (h : Header) (p : List Byte) (i : Nat) : List Byte :=
  buildFrame P h (if i = 0 then 1 else if i + 1 = chunkCount p.length then 3 else 2)
    (BitVec.ofNat 8 i :: (p.drop (11 * i)).take 11)

/-- `OPERATIONAL_CLEAN(locked)`: the block R276 names, with the trace of the run that led to it. -/
def Block.operationalClean (P : Params) (locked : Bool) (trace : List Event) : Block :=
  { Block.launch .asserted with
    bringup := .operational
    irqArmed := .steadyState
    transceiverLocked := locked
    lockPollActive := !locked && P.bringupStartsPoll
    trace := trace }

end Sys2Proof.Machine
end

