-- ==== Sys2Proof/Certificates/Slice0/Obligations.lean ====
section
/-! DEFINITION. The statements for the provers. Each docstring says which rule of spec/ it formalises. -/

open Sys2Proof Sys2Proof.Machine

/-! ### Encoding and stepping -/

/-- 30_encoding.md R80 and 60_exceptions.md R243: the next stimulus is decoded from the front of the program and
executed, after the program has moved past its bytes and the byte offset with it. -/
def Obligations.StepRunsTheDecodedStimulus : Prop :=
  ∀ (s : State) (i : Instr) (rest : List Byte),
    s.blk.bringup ≠ .fatal → s.env.ended = none → decode s.env.program = .ok (i, rest) →
    step s = exec i (present rest s) ∧
    present rest s = { s with env := { s.env with
      program := rest
      consumed := s.env.consumed + (s.env.program.length - rest.length) } }

/-- A few words of 30_encoding.md R82 to R89 written out by hand (95_test_vectors.md E1 to E6, E17). -/
def Obligations.WrittenOutWordsDecode : Prop :=
  decode [0x00] = .ok (.reset, []) ∧
  decode [0x01, 0x12, 0x34] = .ok (.rtWrite 0x12 0x34, []) ∧
  decode [0x02, 0xA0, 0x14] = .ok (.rtRead 0xA0 20, []) ∧
  decode [0x02, 0xFF, 0x01] = .ok (.rtRead 0xFF 1, []) ∧
  decode [0x10, 0x10] = .ok (.irq, [0x10]) ∧
  decode [0x20, 0x01, 0x00, 0x22, 0x01, 0x40, 0x02, 0x00, 0x02, 0xAA, 0xBB] =
    .ok (.send { hdr := { tH := 0x01, tL := 0x00, fb := 0x22, inst := 0x01, fn := 0x400, op := 0x2 },
                 payload := [0xAA, 0xBB] }, []) ∧
  decode [0x32, 0x02] = .ok (.tickReq .dealloc, [])

/-- 30_encoding.md R80 to R89: no bit of an operand is dropped. -/
def Obligations.DecodeAfterEncode : Prop :=
  ∀ (i : Instr) (rest : List Byte), i.wellFormed = true → decode (encode i ++ rest) = .ok (i, rest)

/-- 30_encoding.md R80 to R91: what the decoder reads is the encoding of a well-formed stimulus, in the length R82
gives it. -/
def Obligations.EncodeAfterDecode : Prop :=
  ∀ (i : Instr) (bytes rest : List Byte), decode bytes = .ok (i, rest) →
    i.wellFormed = true ∧ bytes = encode i ++ rest ∧ (encode i).length = stimulusLength i

/-- 30_encoding.md R90: a program that ends inside a stimulus is malformed. -/
def Obligations.TruncatedStimulusIsMalformed : Prop :=
  ∀ (i : Instr) (n : Nat), i.wellFormed = true → 0 < n → n < (encode i).length →
    decode ((encode i).take n) = .error .malformed

/-- 30_encoding.md R84, R86, R87, R88 and R90: the reserved opcodes, and the operands that are out of range. A SEND cut
short, in its header or in its payload, is malformed whatever its length field says: that check comes first
(60_exceptions.md R243, row E12). -/
def Obligations.IllegalEncodingsAreRefused : Prop :=
  (∀ (b : Byte) (rest : List Byte),
    b ∉ ([0x00, 0x01, 0x02, 0x03, 0x04, 0x10, 0x20, 0x30, 0x31, 0x32, 0x40, 0x50, 0x51] : List Byte) →
    decode (b :: rest) = .error .unknownOpcode) ∧
  (∀ (a n : Byte) (rest : List Byte), (n = 0 ∨ 0xFF < a.toNat + n.toNat - 1) →
    decode (0x02 :: a :: n :: rest) = .error .fieldRange) ∧
  (∀ (k : Byte) (rest : List Byte), 3 ≤ k.toNat →
    decode (0x32 :: k :: rest) = .error .fieldRange ∧ decode (0x40 :: k :: rest) = .error .fieldRange) ∧
  (∀ (tH tL fb inst foHi foLo lHi lLo : Byte) (more : List Byte),
    4095 < 256 * lHi.toNat + lLo.toNat → 256 * lHi.toNat + lLo.toNat ≤ more.length →
    decode (0x20 :: tH :: tL :: fb :: inst :: foHi :: foLo :: lHi :: lLo :: more) = .error .fieldRange) ∧
  (∀ (tH tL fb inst foHi foLo lHi lLo : Byte) (more : List Byte),
    more.length < 256 * lHi.toNat + lLo.toNat →
    decode (0x20 :: tH :: tL :: fb :: inst :: foHi :: foLo :: lHi :: lLo :: more) = .error .malformed) ∧
  (∀ header : List Byte, header.length < 8 → decode (0x20 :: header) = .error .malformed)

/-- 30_encoding.md R91: any byte sequence decodes to stimuli that encode back to it, or to stimuli and one refusal at
the offset of the stimulus that is refused. -/
def Obligations.ProgramDecodingIsTotal : Prop :=
  ∀ bytes : List Byte,
    (∀ i ∈ (decodeProgram bytes).1, i.wellFormed = true) ∧
    ((decodeProgram bytes).2 = none → bytes = ((decodeProgram bytes).1.map encode).flatten) ∧
    (∀ c off, (decodeProgram bytes).2 = some (c, off) →
      off < bytes.length ∧ bytes.take off = ((decodeProgram bytes).1.map encode).flatten ∧
      decode (bytes.drop off) = .error c)

/-- 60_exceptions.md R242, R243 and 70_reset_and_hazards.md R287(b): a decode refusal sets the mark, keeps the first
code, and the run ends there. -/
def Obligations.DecodeRefusalEndsTheRun : Prop :=
  ∀ (s : State) (c : RefusalCode),
    s.blk.bringup ≠ .fatal → s.env.ended = none → s.env.program ≠ [] → decode s.env.program = .error c →
    step s = .next { s with
      blk := markRefused c s.blk
      env := { s.env with ended := some (c, s.env.consumed) } } ∧
    step { s with
      blk := markRefused c s.blk
      env := { s.env with ended := some (c, s.env.consumed) } } = .refused .runEnded

/-- 60_exceptions.md R241: in Fatal no stimulus has a step, RESET included. -/
def Obligations.FatalHasNoStep : Prop :=
  ∀ (s : State) (i : Instr), s.blk.bringup = .fatal →
    (∀ t : State, exec i s ≠ .next t) ∧ ∀ t : State, step s ≠ .next t

/-! ### Reset and bring-up -/

/-- 70_reset_and_hazards.md R270: what RESET writes, in every state but Fatal, and that it writes nothing else. -/
def Obligations.ResetStimulusSetsResetValues : Prop :=
  ∀ s : State,
    (s.blk.bringup = .fatal → ∀ t : State, exec .reset s ≠ .next t) ∧
    (s.blk.bringup ≠ .fatal → exec .reset s = .next { s with blk :=
      { bringup := .resetting
        irqArmed := .none
        resetLine := .deasserted
        settleArmed := true
        transceiverLocked := false
        lockPollActive := false
        mpSession := none
        awaitAlloc := false
        awaitGetSource := false
        awaitDealloc := false
        reqTimers := { alloc := 0, getSource := 0, dealloc := 0 }
        connectionLabel := none
        allocResult := none
        nodePosition := none
        maxPosition := none
        fault := s.blk.fault
        refused := s.blk.refused
        refusedCode := s.blk.refusedCode
        trace := s.blk.trace ++ [.resetLine .deasserted] } })

/-- 10_state.md R46 and R47: the model's reset state is the launch state after one RESET, whatever the reset line was
at launch. That the model's reset state is this one is log 5; its launch `refusedCode` is log 10. -/
def Obligations.ResetStateIsLaunchThenReset : Prop :=
  ∀ line : ResetLevel, exec .reset (State.launch Config.params line) = .next State.reset

/-- 70_reset_and_hazards.md R271: the end of the settle delay, and the two refusals. -/
def Obligations.SettleTickArmsTheWatch : Prop :=
  ∀ s : State, s.blk.bringup ≠ .fatal →
    (s.blk.bringup ≠ .off → s.blk.settleArmed = true →
      exec .tickSettle s = .next { s with blk := { s.blk with
        settleArmed := false
        resetLine := .asserted
        irqArmed := .oneShot
        bringup := .awaitingFirstInterrupt
        trace := s.blk.trace ++ [.resetLine .asserted] } }) ∧
    (s.blk.bringup = .off → exec .tickSettle s = .next { s with blk := markRefused .state s.blk }) ∧
    (s.blk.bringup ≠ .off → s.blk.settleArmed = false →
      exec .tickSettle s = .next { s with blk := markRefused .notEnabled s.blk })

/-- 10_state.md R46: in Off every stimulus but RESET is refused with REFUSED_STATE, and nothing else changes. -/
def Obligations.OffAdmitsOnlyReset : Prop :=
  ∀ (s : State) (i : Instr), s.blk.bringup = .off → i ≠ .reset → i.wellFormed = true →
    exec i s = .next { s with blk := markRefused .state s.blk }

/-- 30_encoding.md R81: a timer stimulus presented while its timer is not armed is refused with
REFUSED_NOT_ENABLED, and nothing else changes. -/
def Obligations.TimerStimulusNeedsItsTimer : Prop :=
  ∀ (s : State) (i : Instr), s.blk.bringup ≠ .fatal → s.blk.bringup ≠ .off → timerEnabled s.blk i = false →
    exec i s = .next { s with blk := markRefused .notEnabled s.blk }

/-- 70_reset_and_hazards.md R272 to R274 and 44_lock_monitor.md R207: the table is written in list order, the release
request goes out and the deallocation is awaited; then the lock is found and the error reason cleared, or, without
lock, the poll is armed if BRINGUP_STARTS_POLL. -/
def Obligations.FirstInterruptConfiguresTheChip : Prop :=
  ∀ (s : State) (rxs : List Byte) (p q v rx : Byte),
    watching s = true → rxs.length = s.cfg.configTable.length →
    let evs : List Event :=
      tableEvents s.cfg.configTable rxs ++ [.allocPortReq .deallocAll 0x7F#8] ++ evalEvents s.cfg p q
    let relocked : List Event := evs ++ [.locked] ++ clearEvents s.cfg .err v rx
    (bothLocked s.cfg p q = true → chipPlays relocked s = true →
      exec .irq s = .next (onBlock (fun b => { b with
        irqArmed := .steadyState
        bringup := .operational
        awaitDealloc := true
        reqTimers := { b.reqTimers with dealloc := b.reqTimers.dealloc + 1 }
        transceiverLocked := true
        lockPollActive := false }) (played relocked s))) ∧
    (bothLocked s.cfg p q = false → chipPlays evs s = true →
      exec .irq s = .next (onBlock (fun b => { b with
        irqArmed := .steadyState
        bringup := .operational
        awaitDealloc := true
        reqTimers := { b.reqTimers with dealloc := b.reqTimers.dealloc + 1 }
        lockPollActive := s.cfg.bringupStartsPoll || b.lockPollActive }) (played evs s)))

/-- 41_register_transport.md R114: whichever access of an interrupt or of a lock poll fails, the step ends there in
Fatal with FATAL_TRANSPORT, and what came before is kept. At the first interrupt (70_reset_and_hazards.md R272) a failed
table write leaves no watch armed; after the table the block is Operational with the deallocation awaited (R274), and a
failed access of the lock check leaves that so. At a relock (44_lock_monitor.md R205) `Locked` is in the trace and the
lock state still as it was. The steady-state branches (42_interrupt_dispatch.md R131 to R139) change no field before
their last access. The accesses of the RT_ stimuli are `FailedRegisterAccessIsFatal`. -/
def Obligations.FailedAccessKeepsEarlierEffects : Prop :=
  (∀ (s : State) (rxs : List Byte),
    watching s = true → rxs.length = s.cfg.configTable.length →
    StopsAtFailure (tableEvents s.cfg.configTable rxs)
      (onBlock (fun b => { b with irqArmed := .none, bringup := .configuring }) s) (exec .irq s)) ∧
  (∀ (s : State) (rxs : List Byte) (p q v rx : Byte),
    watching s = true → rxs.length = s.cfg.configTable.length →
    let evs : List Event := tableEvents s.cfg.configTable rxs ++ [.allocPortReq .deallocAll 0x7F#8]
    chipPlays evs s = true →
    StopsAtFailure (checkEvents s.cfg p q v rx)
      (onBlock (fun b => { b with
        irqArmed := .steadyState
        bringup := .operational
        awaitDealloc := true
        reqTimers := { b.reqTimers with dealloc := b.reqTimers.dealloc + 1 } }) (played evs s))
      (exec .irq s)) ∧
  (∀ (s : State) (p q v rx : Byte),
    s.blk.bringup ≠ .fatal → s.blk.bringup ≠ .off → s.blk.lockPollActive = true →
    StopsAtFailure (checkEvents s.cfg p q v rx) s (exec .tickLockPoll s)) ∧
  (∀ (s : State) (x : Byte), serving s = true →
    let status : Event := .regRead s.cfg.regStatus 1#8 [x]
    StopsAtFailure [status] s (exec .irq s) ∧
    (∀ (b : List Byte) (v rv e re : Byte), s.cfg.wellFormed = true → reasonOf s.cfg x = some .rx →
      StopsAtFailure ([status, .regRead s.cfg.regRxBuf 20#8 b, .mostMessageRx (decodeFrame s.cfg b)]
        ++ clearEvents s.cfg .rx v rv
        ++ [.regRead s.cfg.regRbe 1#8 [e], .regWrite s.cfg.regRbe (reenabled s.cfg e) re]) s (exec .irq s)) ∧
    (∀ f v rv : Byte, reasonOf s.cfg x = some .err →
      StopsAtFailure ([status, .regRead s.cfg.regFault 1#8 [f]]
        ++ (if lockLossCondition s.cfg s.blk.transceiverLocked f then [] else clearEvents s.cfg .err v rv)) s
        (exec .irq s)) ∧
    (∀ (v rv : Byte) (mb : List Byte), s.cfg.wellFormed = true → reasonOf s.cfg x = some .tx →
      StopsAtFailure (status :: clearEvents s.cfg .tx v rv
        ++ (if pendingRequest s.blk = none then [] else [.regRead s.cfg.regMbox 20#8 mb])) s (exec .irq s)) ∧
    (∀ v rv p mx : Byte, reasonOf s.cfg x = some .nc →
      let cleared : List Event := status :: clearEvents s.cfg .nc v rv
      let positions : List Event := [.regRead s.cfg.regNpr 1#8 [p], .regRead s.cfg.regMpr 1#8 [mx]]
      StopsAtFailure cleared s (exec .irq s) ∧
      (s.cfg.ncPosition = .read → StopsAtFailure (cleared ++ positions) s (exec .irq s)) ∧
      (s.cfg.ncPosition = .either → chipPlays cleared s = true → ncDraw (played cleared s) = true →
        StopsAtFailure positions (takeNcDraw (played cleared s)) (exec .irq s))))

/-- 70_reset_and_hazards.md R275 and R276: RESET, TICK_SETTLE, the first interrupt and one TICK_REQ DEALLOC lead from
the launch state to OPERATIONAL_CLEAN. The `refusedCode` of the block it names is the launch value none, the model's
choice (log 10). -/
def Obligations.BringupReachesOperationalClean : Prop :=
  ∀ (P : Params) (line : ResetLevel) (env : Env) (rxs : List Byte) (p q v rx : Byte),
    rxs.length = P.configTable.length →
    let evs : List Event := tableEvents P.configTable rxs ++ [.allocPortReq .deallocAll 0x7F#8] ++ evalEvents P p q
      ++ (if bothLocked P p q then [.locked] ++ clearEvents P .err v rx else [])
    let lines : List Event := [.resetLine .deasserted, .resetLine .asserted]
    chipPlays evs { cfg := P, blk := { Block.launch .asserted with trace := lines }, env := env } = true →
    ∃ s₁ s₂ s₃ s₄ : State,
      exec .reset { cfg := P, blk := Block.launch line, env := env } = .next s₁ ∧
      exec .tickSettle s₁ = .next s₂ ∧ exec .irq s₂ = .next s₃ ∧ exec (.tickReq .dealloc) s₃ = .next s₄ ∧
      s₄.cfg = P ∧ s₄.blk = Block.operationalClean P (bothLocked P p q) (lines ++ evs)

/-! ### Register transport -/

/-- 41_register_transport.md R110 and R115. -/
def Obligations.RegisterWriteResult : Prop :=
  ∀ (s : State) (a v rx : Byte),
    (s.blk.bringup = .resetting ∨ s.blk.bringup = .awaitingFirstInterrupt) →
    busReply (.write a v) s = some [rx] →
    exec (.rtWrite a v) s = .next (played [.regWrite a v rx, .hostReturn (.byte rx)] s)

/-- 41_register_transport.md R111 and R115. -/
def Obligations.RegisterReadResult : Prop :=
  ∀ (s : State) (a n : Byte) (data : List Byte),
    (s.blk.bringup = .resetting ∨ s.blk.bringup = .awaitingFirstInterrupt) →
    1 ≤ n.toNat → a.toNat + n.toNat - 1 ≤ 0xFF → busReply (.read a n) s = some data →
    exec (.rtRead a n) s = .next (played [.regRead a n data, .hostReturn (.bytes data)] s) ∧
    data.length = n.toNat

/-- 41_register_transport.md R112, R113 and R115: zeros, or ones, at the mask bits; every other bit is written back as
read. -/
def Obligations.ReadModifyWriteResults : Prop :=
  ∀ (s : State) (a m v rx : Byte),
    (s.blk.bringup = .resetting ∨ s.blk.bringup = .awaitingFirstInterrupt) →
    let cleared : List Event := [.regRead a 1#8 [v], .regWrite a (v &&& ~~~m) rx]
    let set : List Event := [.regRead a 1#8 [v], .regWrite a (v ||| m) rx]
    (chipPlays cleared s = true → exec (.rtRmwClr a m) s = .next (played cleared s)) ∧
    (chipPlays set s = true → exec (.rtRmwSet a m) s = .next (played set s))

/-- 41_register_transport.md R115: outside Resetting and AwaitingFirstInterrupt the four stimuli are refused with
REFUSED_STATE and nothing is accessed. -/
def Obligations.RegisterStimuliAreRefusedAfterBringup : Prop :=
  ∀ (s : State) (i : Instr), isRegisterTransport i = true →
    s.blk.bringup ≠ .fatal → s.blk.bringup ≠ .resetting → s.blk.bringup ≠ .awaitingFirstInterrupt →
    exec i s = .next { s with blk := markRefused .state s.blk }

/-- 41_register_transport.md R112 and R114: a failed access raises FATAL_TRANSPORT and ends the step; if the read of a
read-modify-write fails the write is not performed, and if the write fails the read stays in the trace. -/
def Obligations.FailedRegisterAccessIsFatal : Prop :=
  ∀ (s : State) (a x : Byte),
    (s.blk.bringup = .resetting ∨ s.blk.bringup = .awaitingFirstInterrupt) →
    (busReply (.write a x) s = none →
      exec (.rtWrite a x) s = .next (onBlock (markFault .transport) (takeReply s))) ∧
    (burstInBounds a x = true → busReply (.read a x) s = none →
      exec (.rtRead a x) s = .next (onBlock (markFault .transport) (takeReply s))) ∧
    (busReply (.read a 1#8) s = none →
      exec (.rtRmwClr a x) s = .next (onBlock (markFault .transport) (takeReply s)) ∧
      exec (.rtRmwSet a x) s = .next (onBlock (markFault .transport) (takeReply s))) ∧
    (∀ v : Byte, busReply (.read a 1#8) s = some [v] →
      (busReply (.write a (v &&& ~~~x)) (played [.regRead a 1#8 [v]] s) = none →
        exec (.rtRmwClr a x) s =
          .next (onBlock (markFault .transport) (takeReply (played [.regRead a 1#8 [v]] s)))) ∧
      (busReply (.write a (v ||| x)) (played [.regRead a 1#8 [v]] s) = none →
        exec (.rtRmwSet a x) s =
          .next (onBlock (markFault .transport) (takeReply (played [.regRead a 1#8 [v]] s)))))

/-! ### Interrupt dispatch -/

/-- Frame of the four RT_ stimuli and of the lock poll, whatever the chip answers: of the block only a fault, a refusal
and the trace can differ ("Flags written: none", 41_register_transport.md R110 to R114), and for the poll also the lock
state and the poll itself (44_lock_monitor.md R206). -/
def Obligations.RegisterAndPollFrame : Prop :=
  ∀ (s t : State) (i : Instr), isRegisterTransport i = true ∨ i = .tickLockPoll → exec i s = .next t →
    t.cfg = s.cfg ∧ t.env.program = s.env.program ∧
    t.blk = { s.blk with
      transceiverLocked := t.blk.transceiverLocked
      lockPollActive := t.blk.lockPollActive
      bringup := t.blk.bringup
      fault := t.blk.fault
      refused := t.blk.refused
      refusedCode := t.blk.refusedCode
      trace := t.blk.trace } ∧
    (i ≠ .tickLockPoll → t.blk.transceiverLocked = s.blk.transceiverLocked ∧
      t.blk.lockPollActive = s.blk.lockPollActive) ∧
    (t.blk.bringup = s.blk.bringup ∧ t.blk.fault = s.blk.fault ∨
      t.blk.bringup = .fatal ∧ t.blk.fault = some .transport)

/-- 42_interrupt_dispatch.md R141: an interrupt before a watch is armed is logged and ignored; in a state that meets
the block's invariants that is the state Resetting. -/
def Obligations.UnwatchedInterruptIsIgnored : Prop :=
  ∀ s : State, s.blk.bringup ≠ .fatal → s.blk.bringup ≠ .off → s.blk.irqArmed = .none →
    exec .irq s = .next { s with blk := { s.blk with trace := s.blk.trace ++ [.log .irqIgnored] } } ∧
    (BlockInv s.blk → s.blk.bringup = .resetting)

/-- 42_interrupt_dispatch.md R131 and R132: the message-received branch outranks every other. -/
def Obligations.ReceiveInterruptDeliversOneFrame : Prop :=
  ∀ (s : State) (x : Byte) (b : List Byte) (v rv e re : Byte),
    serving s = true → s.cfg.wellFormed = true → holds s.cfg.matchRx x = true →
    let evs : List Event := [.regRead s.cfg.regStatus 1#8 [x], .regRead s.cfg.regRxBuf 20#8 b,
        .mostMessageRx (decodeFrame s.cfg b)] ++ clearEvents s.cfg .rx v rv
      ++ [.regRead s.cfg.regRbe 1#8 [e], .regWrite s.cfg.regRbe (reenabled s.cfg e) re]
    chipPlays evs s = true → exec .irq s = .next (played evs s)

/-- 42_interrupt_dispatch.md R134 and 44_lock_monitor.md R200 to R203: the lock is lost. The error reason is not
cleared. -/
def Obligations.ErrorInterruptLosesLock : Prop :=
  ∀ (s : State) (x f : Byte),
    serving s = true → holds s.cfg.matchRx x = false → holds s.cfg.matchErr x = true →
    f &&& s.cfg.mLockActive ≠ 0 → s.cfg.isMaster = false → s.blk.transceiverLocked = true →
    let evs : List Event := [.regRead s.cfg.regStatus 1#8 [x], .regRead s.cfg.regFault 1#8 [f], .unlocked]
    chipPlays evs s = true →
    exec .irq s = .next (onBlock (fun b => { b with transceiverLocked := false, lockPollActive := true })
      (played evs s))

/-- 44_lock_monitor.md R202 and R208: any other fault is transient, and only its reason bit is cleared. -/
def Obligations.TransientErrorIsOnlyCleared : Prop :=
  ∀ (s : State) (x f v rv : Byte),
    serving s = true → holds s.cfg.matchRx x = false → holds s.cfg.matchErr x = true →
    (f &&& s.cfg.mLockActive = 0 ∨ s.cfg.isMaster = true ∨ s.blk.transceiverLocked = false) →
    let evs : List Event :=
      [.regRead s.cfg.regStatus 1#8 [x], .regRead s.cfg.regFault 1#8 [f]] ++ clearEvents s.cfg .err v rv
    chipPlays evs s = true → exec .irq s = .next (played evs s)

/-- 42_interrupt_dispatch.md R135 and R136: no flag set, so the mailbox is not read; `MessageSent`, then the
continuation in the same step. -/
def Obligations.TransmitInterruptWithoutRequest : Prop :=
  ∀ (s : State) (x v rv : Byte),
    serving s = true → holds s.cfg.matchRx x = false → holds s.cfg.matchErr x = false →
    holds s.cfg.matchTx x = true →
    s.blk.awaitAlloc = false → s.blk.awaitGetSource = false → s.blk.awaitDealloc = false →
    let evs : List Event := .regRead s.cfg.regStatus 1#8 [x] :: clearEvents s.cfg .tx v rv ++ [.messageSent]
    chipPlays evs s = true → exec .irq s = .next (mpContinue (played evs s))

/-- 42_interrupt_dispatch.md R135 and 45_request_tracking.md R222: the allocation is resolved first, whatever other
flags are set; its timeout is not cancelled. -/
def Obligations.TransmitInterruptResolvesAllocation : Prop :=
  ∀ (s : State) (x v rv : Byte) (mb : List Byte),
    serving s = true → s.cfg.wellFormed = true →
    holds s.cfg.matchRx x = false → holds s.cfg.matchErr x = false → holds s.cfg.matchTx x = true →
    s.blk.awaitAlloc = true →
    let r := allocDecode s.cfg (decodeFrame s.cfg mb).payload
    let evs : List Event := .regRead s.cfg.regStatus 1#8 [x] :: clearEvents s.cfg .tx v rv
      ++ [.regRead s.cfg.regMbox 20#8 mb, .allocResult r, .messageSent]
    chipPlays evs s = true →
    exec .irq s = .next (mpContinue (onBlock (fun b => { b with
      awaitAlloc := false
      allocResult := some r
      connectionLabel := some r.connectionLabel }) (played evs s)))

/-- 42_interrupt_dispatch.md R135 and 45_request_tracking.md R222, R226 and R228: with no allocation awaited the
get-source request is resolved, and with neither awaited the deallocation; a Grant clears the label, every other
answer leaves it. -/
def Obligations.TransmitInterruptResolvesOtherRequests : Prop :=
  ∀ (s : State) (x v rv : Byte) (mb : List Byte),
    serving s = true → s.cfg.wellFormed = true →
    holds s.cfg.matchRx x = false → holds s.cfg.matchErr x = false → holds s.cfg.matchTx x = true →
    s.blk.awaitAlloc = false →
    let cleared : List Event := .regRead s.cfg.regStatus 1#8 [x] :: clearEvents s.cfg .tx v rv
    let source : List Event := cleared ++ [.regRead s.cfg.regMbox 20#8 mb, .remoteSourceResult mb, .messageSent]
    let a := deallocAnswer s.cfg (decodeFrame s.cfg mb).payload
    let release : List Event := cleared ++ [.regRead s.cfg.regMbox 20#8 mb, .deallocResult { answer := a }, .messageSent]
    (s.blk.awaitGetSource = true → chipPlays source s = true →
      exec .irq s =
        .next (mpContinue (onBlock (fun b => { b with awaitGetSource := false }) (played source s)))) ∧
    (s.blk.awaitGetSource = false → s.blk.awaitDealloc = true → chipPlays release s = true →
      exec .irq s = .next (mpContinue (onBlock (fun b => { b with
        awaitDealloc := false
        connectionLabel := if a = .grant then none else b.connectionLabel }) (played release s))))

/-- 42_interrupt_dispatch.md R137: the network-changed branch under each policy. -/
def Obligations.NetworkChangedInterruptResult : Prop :=
  ∀ (s : State) (x v rv p mx : Byte),
    serving s = true → holds s.cfg.matchRx x = false → holds s.cfg.matchErr x = false →
    holds s.cfg.matchTx x = false → holds s.cfg.matchNc x = true →
    let evs : List Event := .regRead s.cfg.regStatus 1#8 [x] :: clearEvents s.cfg .nc v rv
    let more : List Event :=
      [.regRead s.cfg.regNpr 1#8 [p], .regRead s.cfg.regMpr 1#8 [mx], .positionUpdate p mx]
    let keep := onBlock fun b => { b with nodePosition := some p, maxPosition := some mx }
    chipPlays evs s = true →
    (s.cfg.ncPosition = .none → exec .irq s = .next (played evs s)) ∧
    (s.cfg.ncPosition = .read → chipPlays more (played evs s) = true →
      exec .irq s = .next (keep (played more (played evs s)))) ∧
    (s.cfg.ncPosition = .either → ncDraw (played evs s) = false →
      exec .irq s = .next (takeNcDraw (played evs s))) ∧
    (s.cfg.ncPosition = .either → ncDraw (played evs s) = true →
      chipPlays more (takeNcDraw (played evs s)) = true →
      exec .irq s = .next (keep (played more (takeNcDraw (played evs s)))))

/-- 42_interrupt_dispatch.md R138: a status that matches no pattern is logged and ignored. -/
def Obligations.UnmatchedStatusIsLogged : Prop :=
  ∀ (s : State) (x : Byte),
    serving s = true → holds s.cfg.matchRx x = false → holds s.cfg.matchErr x = false →
    holds s.cfg.matchTx x = false → holds s.cfg.matchNc x = false →
    let evs : List Event := [.regRead s.cfg.regStatus 1#8 [x], .log .unmatchedStatus]
    chipPlays evs s = true → exec .irq s = .next (played evs s)

/-- 00_scope.md R8 and 42_interrupt_dispatch.md R131: what a byte predicate holds of. The default form with mask `m`
holds of `s` where `(s AND m) != 0`, that is where they share a set bit; and every predicate on a byte is some table
(log 11). -/
def Obligations.BytePredicateMeaning : Prop :=
  (∀ m s : Byte, (holds (.anySet m) s = true ↔ s &&& m ≠ 0) ∧
    (holds (.anySet m) s = true ↔ ∃ j, j < 8 ∧ m.getLsbD j = true ∧ s.getLsbD j = true)) ∧
  ∀ f : Byte → Bool, ∃ bits : BitVec 256, ∀ s : Byte, holds (.table bits) s = f s

/-- 42_interrupt_dispatch.md R139 and R133: a reason is cleared, and the receive buffer re-enabled, at the mask bits
only, by the value the polarity says; every other bit is written back as read. -/
def Obligations.ReadModifyWriteTouchesOnlyMaskBits : Prop :=
  ∀ (P : Params) (k : Reason) (v : Byte) (j : Nat), j < 8 →
    (clearedReason P k v).getLsbD j =
      (if (reasonMask P k).getLsbD j then decide (P.clrPolarity = .writeOne) else v.getLsbD j) ∧
    (reenabled P v).getLsbD j =
      (if P.mRbe.getLsbD j then decide (P.rbePolarity = .set) else v.getLsbD j)

/-- Frame of an interrupt, whatever the chip answers: it never moves the reset line, the settle timer or the
ALLOC and GETSRC timeouts, sets neither of their flags, and the steady-state handler arms no timeout and stays armed
(42_interrupt_dispatch.md R130 to R139, 70_reset_and_hazards.md R272 to R274). -/
def Obligations.InterruptFrame : Prop :=
  ∀ s t : State, exec .irq s = .next t →
    t.cfg = s.cfg ∧ t.env.program = s.env.program ∧
    t.blk.resetLine = s.blk.resetLine ∧ t.blk.settleArmed = s.blk.settleArmed ∧
    t.blk.reqTimers.alloc = s.blk.reqTimers.alloc ∧ t.blk.reqTimers.getSource = s.blk.reqTimers.getSource ∧
    (s.blk.awaitAlloc = false → t.blk.awaitAlloc = false) ∧
    (s.blk.awaitGetSource = false → t.blk.awaitGetSource = false) ∧
    (s.blk.irqArmed ≠ .oneShot →
      t.blk.irqArmed = s.blk.irqArmed ∧ t.blk.reqTimers = s.blk.reqTimers ∧
      (s.blk.awaitDealloc = false → t.blk.awaitDealloc = false))

/-! ### Sending and the frame codec -/

/-- 43_frame_codec.md R161: a SEND while unlocked emits exactly one log record and changes nothing else. -/
def Obligations.SendWhileUnlockedIsDropped : Prop :=
  ∀ (s : State) (req : TxRequest),
    s.blk.bringup ≠ .fatal → s.blk.bringup ≠ .off → req.payload.length ≤ 4095 →
    s.blk.transceiverLocked = false →
    exec (.send req) s =
      .next { s with blk := { s.blk with trace := s.blk.trace ++ [.log .dropUnlocked] } }

/-- 43_frame_codec.md R162, R174 and R178: one frame with telegram id 0 whose byte 8 is the length; an active session
is not touched. -/
def Obligations.SingleFrameSend : Prop :=
  ∀ (s : State) (h : Header) (d : List Byte),
    s.blk.bringup ≠ .fatal → s.blk.bringup ≠ .off → s.blk.transceiverLocked = true → d.length ≤ 12 →
    exec (.send { hdr := h, payload := d }) s =
      .next { s with blk := { s.blk with trace := s.blk.trace ++ [.frameOut (buildFrame s.cfg h 0 d)] } } ∧
    (buildFrame s.cfg h 0 d)[8]? = some (BitVec.ofNat 8 d.length)

/-- 43_frame_codec.md R164 and R166: the first chunk is sent at once, and the session holds the rest. -/
def Obligations.MultiPartSendStartsSession : Prop :=
  ∀ (s : State) (h : Header) (p : List Byte),
    s.blk.bringup ≠ .fatal → s.blk.bringup ≠ .off → s.blk.transceiverLocked = true →
    s.blk.mpSession = none → 13 ≤ p.length → p.length ≤ 4095 →
    exec (.send { hdr := h, payload := p }) s =
      .next { s with blk := { s.blk with
        mpSession := some { hdr := h, remaining := p.drop 11, seq := 1 }
        trace := s.blk.trace ++ [.frameOut (buildFrame s.cfg h 1 (0 :: p.take 11))] } }

/-- 43_frame_codec.md R165: a second multi-part request raises MP_OVERLAP; no frame, the old session is kept. -/
def Obligations.OverlappingMultiPartSendFaults : Prop :=
  ∀ (s : State) (h : Header) (p : List Byte) (ses : Session),
    s.blk.bringup ≠ .fatal → s.blk.bringup ≠ .off → s.blk.transceiverLocked = true →
    s.blk.mpSession = some ses → 13 ≤ p.length → p.length ≤ 4095 →
    exec (.send { hdr := h, payload := p }) s =
      .next { s with blk := { s.blk with fault := some .mpOverlap, bringup := .fatal } }

/-- 43_frame_codec.md R167 to R170: a due continuation sends exactly one chunk; id 3 and the end of the session when it
empties the payload, id 2 and the counter modulo 256 otherwise; with no session nothing happens. -/
def Obligations.ContinuationSendsOneChunk : Prop :=
  ∀ s : State,
    (s.blk.mpSession = none → mpContinue s = s) ∧
    (∀ ses : Session, s.blk.mpSession = some ses → s.blk.transceiverLocked = true →
      (ses.remaining.length ≤ 11 →
        mpContinue s = { s with blk := { s.blk with
          mpSession := none
          trace := s.blk.trace ++ [.frameOut (buildFrame s.cfg ses.hdr 3 (ses.seq :: ses.remaining))] } }) ∧
      (11 < ses.remaining.length →
        mpContinue s = { s with blk := { s.blk with
          mpSession := some { hdr := ses.hdr, remaining := ses.remaining.drop 11,
                              seq := BitVec.ofNat 8 (ses.seq.toNat + 1) }
          trace := s.blk.trace ++
            [.frameOut (buildFrame s.cfg ses.hdr 2 (ses.seq :: ses.remaining.take 11))] } }))

/-- 43_frame_codec.md R171: the three arms of a continuation due while unlocked, and that EITHER takes the drawn one. -/
def Obligations.GatedContinuationFollowsPolicy : Prop :=
  ∀ (s : State) (ses : Session), s.blk.mpSession = some ses → s.blk.transceiverLocked = false →
    let result : GateArm → State → State := fun arm u =>
      match arm with
      | .advance => { u with blk := { u.blk with
          mpSession := if ses.remaining.length ≤ 11 then none
            else some { hdr := ses.hdr, remaining := ses.remaining.drop 11, seq := ses.seq + 1 }
          trace := u.blk.trace ++ [.log .mpChunkDropped] } }
      | .hold => { u with blk := { u.blk with trace := u.blk.trace ++ [.log .dropUnlocked] } }
      | .abort => { u with blk := { u.blk with
          mpSession := none
          trace := u.blk.trace ++ [.log .mpAborted] } }
    (∀ arm, s.cfg.mpGatePolicy = .fixed arm → mpContinue s = result arm s) ∧
    (s.cfg.mpGatePolicy = .either → mpContinue s = result (gateDraw s) (takeGateDraw s))

/-- 43_frame_codec.md R172 and R173: a locked multi-part payload leaves as `ceil(L/11)` chunk frames, frame 0 in the
SEND step and frame j at the j-th MessageSent, and the chunks in order are the payload. -/
def Obligations.MultiPartPayloadIsPartitioned : Prop :=
  ∀ (s t : State) (h : Header) (p : List Byte),
    s.blk.bringup ≠ .off → s.blk.transceiverLocked = true → s.blk.mpSession = none →
    13 ≤ p.length → p.length ≤ 4095 → exec (.send { hdr := h, payload := p }) s = .next t →
    (∀ j : Nat,
      frames (continuations j t).blk.trace =
        frames s.blk.trace ++ (List.range (min (j + 1) (chunkCount p.length))).map (chunkFrame s.cfg h p) ∧
      ((continuations j t).blk.mpSession = none ↔ chunkCount p.length ≤ j + 1)) ∧
    ((List.range (chunkCount p.length)).map fun i => (p.drop (11 * i)).take 11).flatten = p

/-- 30_encoding.md R92 and R93, 43_frame_codec.md R163: the outbound slot byte by byte. -/
def Obligations.OutboundSlotLayout : Prop :=
  ∀ (P : Params) (h : Header) (tid : Nibble) (d : List Byte), tid.toNat ≤ 3 → d.length ≤ 12 →
    let f := buildFrame P h tid d
    f.length = 21 ∧
    f[0]? = some P.txStartByte ∧ f[1]? = some P.txReservedByte ∧ f[2]? = some h.tH ∧ f[3]? = some h.tL ∧
    f[4]? = some h.fb ∧ f[5]? = some h.inst ∧
    f[6]? = some (BitVec.ofNat 8 (h.fn.toNat / 16)) ∧
    f[7]? = some (BitVec.ofNat 8 (16 * (h.fn.toNat % 16) + h.op.toNat)) ∧
    f[8]? = some (BitVec.ofNat 8 (16 * tid.toNat + d.length)) ∧
    (f.drop 9).take d.length = d ∧ f.drop (9 + d.length) = List.replicate (12 - d.length) 0

/-- 30_encoding.md R94 to R97 and 43_frame_codec.md R175: the inbound fields of every 20-byte buffer. -/
def Obligations.InboundBufferFields : Prop :=
  ∀ (P : Params) (ty sH sL fb inst hi lo tel : Byte) (area : List Byte), area.length = 12 →
    let m := decodeFrame P (ty :: sH :: sL :: fb :: inst :: hi :: lo :: tel :: area)
    m.sourceAddressHigh = sH ∧ m.sourceAddressLow = sL ∧ m.fBlockId = fb ∧ m.instanceId = inst ∧
    m.functionId.toNat = 16 * hi.toNat + lo.toNat / 16 ∧ m.opType.toNat = lo.toNat % 16 ∧
    m.telegramId.toNat = tel.toNat / 16 ∧ m.telegramLen.toNat = tel.toNat % 16 ∧
    m.payload = (if holds P.isExtended ty then area.take 11 else area)

/-- 43_frame_codec.md R177: encoding a request and decoding the slot without its start byte. -/
def Obligations.FrameRoundTrip : Prop :=
  ∀ (P : Params) (h : Header) (d : List Byte), d.length ≤ 12 →
    let m := decodeFrame P ((buildFrame P h 0 d).drop 1)
    let padded := d ++ List.replicate (12 - d.length) 0
    m.fBlockId = h.fb ∧ m.instanceId = h.inst ∧ m.functionId = h.fn ∧ m.opType = h.op ∧
    m.telegramId = 0 ∧ m.telegramLen = BitVec.ofNat 4 d.length ∧
    m.sourceAddressHigh = h.tH ∧ m.sourceAddressLow = h.tL ∧
    m.payload = (if holds P.isExtended P.txReservedByte then padded.take 11 else padded) ∧
    m.payload.take (min d.length 11) = d.take 11 ∧
    (d.length = 12 → holds P.isExtended P.txReservedByte = false → m.payload = d)

/-! ### The lock monitor -/

/-- 44_lock_monitor.md R204 to R206: both registers are read, PLL first; if both indicate lock the block relocks and the
poll ends, otherwise the poll stays armed and nothing else happens. -/
def Obligations.LockPollResult : Prop :=
  ∀ (s : State) (p q v rx : Byte),
    s.blk.bringup ≠ .fatal → s.blk.bringup ≠ .off → s.blk.lockPollActive = true →
    let evs : List Event := [.regRead s.cfg.regPll 1#8 [p], .regRead s.cfg.regFreq 1#8 [q]]
    let relocked : List Event := evs ++ [.locked] ++ clearEvents s.cfg .err v rx
    (s.cfg.lockPolarity = .lockedWhenClear ∧ p &&& s.cfg.mPll = 0 ∧ q &&& s.cfg.mFreq = 0 ∨
      s.cfg.lockPolarity = .lockedWhenSet ∧ p &&& s.cfg.mPll = s.cfg.mPll ∧ q &&& s.cfg.mFreq = s.cfg.mFreq →
      chipPlays relocked s = true →
      exec .tickLockPoll s =
        .next (onBlock (fun b => { b with transceiverLocked := true, lockPollActive := false })
          (played relocked s))) ∧
    (s.cfg.lockPolarity = .lockedWhenClear ∧ (p &&& s.cfg.mPll ≠ 0 ∨ q &&& s.cfg.mFreq ≠ 0) ∨
      s.cfg.lockPolarity = .lockedWhenSet ∧
        (p &&& s.cfg.mPll ≠ s.cfg.mPll ∨ q &&& s.cfg.mFreq ≠ s.cfg.mFreq) →
      chipPlays evs s = true → exec .tickLockPoll s = .next (played evs s))

/-- 10_state.md R25 and R26, 44_lock_monitor.md ("No other unit writes either field"): only an interrupt, the lock poll
and RESET move the lock state or the poll. -/
def Obligations.OnlyTheMonitorAndResetMoveTheLock : Prop :=
  ∀ (s t : State) (i : Instr), i ≠ .irq → i ≠ .tickLockPoll → i ≠ .reset → exec i s = .next t →
    t.blk.transceiverLocked = s.blk.transceiverLocked ∧ t.blk.lockPollActive = s.blk.lockPollActive

/-! ### Requests and positions -/

/-- 45_request_tracking.md R220: outside Operational every REQ_ARM is refused with REFUSED_STATE; a deallocation
without a label is a logged no-op (R226, R232); otherwise the flag is set and one more timeout counted, and nothing else
changes. -/
def Obligations.RequestArmSetsFlagAndTimeout : Prop :=
  ∀ (s : State) (k : ReqKind), s.blk.bringup ≠ .fatal →
    (s.blk.bringup ≠ .operational → exec (.reqArm k) s = .next { s with blk := markRefused .state s.blk }) ∧
    (s.blk.bringup = .operational → k = .dealloc → s.blk.connectionLabel = none →
      exec (.reqArm k) s = .next { s with blk := { s.blk with trace := s.blk.trace ++ [.log .deallocNoLabel] } }) ∧
    (s.blk.bringup = .operational → (k = .dealloc → s.blk.connectionLabel ≠ none) →
      ∃ t : State, exec (.reqArm k) s = .next t ∧ t.cfg = s.cfg ∧ t.env = s.env ∧
        awaiting t.blk k = true ∧ reqCount t.blk.reqTimers k = reqCount s.blk.reqTimers k + 1 ∧
        (∀ j, j ≠ k → awaiting t.blk j = awaiting s.blk j ∧
          reqCount t.blk.reqTimers j = reqCount s.blk.reqTimers j) ∧
        t.blk = { s.blk with
          awaitAlloc := t.blk.awaitAlloc
          awaitGetSource := t.blk.awaitGetSource
          awaitDealloc := t.blk.awaitDealloc
          reqTimers := t.blk.reqTimers })

/-- 45_request_tracking.md R221: one expiry clears the flag and counts one timeout less, silently; in Off, and with no
timeout of the kind armed, it is refused. -/
def Obligations.RequestTimeoutClearsFlag : Prop :=
  ∀ (s : State) (k : ReqKind), s.blk.bringup ≠ .fatal →
    (s.blk.bringup = .off → exec (.tickReq k) s = .next { s with blk := markRefused .state s.blk }) ∧
    (s.blk.bringup ≠ .off → reqCount s.blk.reqTimers k = 0 →
      exec (.tickReq k) s = .next { s with blk := markRefused .notEnabled s.blk }) ∧
    (s.blk.bringup ≠ .off → 0 < reqCount s.blk.reqTimers k →
      ∃ t : State, exec (.tickReq k) s = .next t ∧ t.cfg = s.cfg ∧ t.env = s.env ∧
        awaiting t.blk k = false ∧ reqCount t.blk.reqTimers k + 1 = reqCount s.blk.reqTimers k ∧
        (∀ j, j ≠ k → awaiting t.blk j = awaiting s.blk j ∧
          reqCount t.blk.reqTimers j = reqCount s.blk.reqTimers j) ∧
        t.blk = { s.blk with
          awaitAlloc := t.blk.awaitAlloc
          awaitGetSource := t.blk.awaitGetSource
          awaitDealloc := t.blk.awaitDealloc
          reqTimers := t.blk.reqTimers })

/-- 45_request_tracking.md R229 and R230: while the allocation flag is down, no interrupt changes the allocation
result or emits one. -/
def Obligations.LateAllocationResponseIsIgnored : Prop :=
  ∀ s t : State, s.blk.awaitAlloc = false → exec .irq s = .next t →
    t.blk.awaitAlloc = false ∧ t.blk.allocResult = s.blk.allocResult ∧
    ∃ evs : List Event, t.blk.trace = s.blk.trace ++ evs ∧ ∀ r, .allocResult r ∉ evs

/-- 45_request_tracking.md R223 and R231: the allocation result of a mailbox payload of 11 or more bytes. -/
def Obligations.AllocationResultFields : Prop :=
  ∀ (P : Params) (p : List Byte) (c : Byte), 11 ≤ p.length → p[P.allocLayout.answer.val]? = some c →
    let r := allocDecode P p
    (c.toNat = 1 → r.answer = .grant) ∧ (c.toNat = 2 → r.answer = .busy) ∧
    (c.toNat = 3 → r.answer = .deny) ∧ (c.toNat = 4 → r.answer = .wrongTarget) ∧
    (c.toNat = 0 ∨ 5 ≤ c.toNat → r.answer = .error) ∧
    (r.answer ≠ .error → p[1]? = some r.freeChannels) ∧ (r.answer = .error → r.freeChannels = 0) ∧
    p[P.allocLayout.label.val]? = some r.connectionLabel ∧
    p[P.allocLayout.ch0.val]? = some r.channelLocations.ch0 ∧
    p[P.allocLayout.ch1.val]? = some r.channelLocations.ch1 ∧
    p[P.allocLayout.ch2.val]? = some r.channelLocations.ch2 ∧
    p[P.allocLayout.ch3.val]? = some r.channelLocations.ch3

/-- 45_request_tracking.md R222 and R226: the deallocation answer of a mailbox payload of 11 or more bytes is what
DEALLOC_CODE_MAP gives byte DEALLOC_ANSWER_INDEX, Error for a code the map does not list. The last clause is the default
map of R226. That a map is a list whose first entry for a code counts is the model's form of it (log 11). -/
def Obligations.DeallocationResultAnswer : Prop :=
  ∀ (P : Params) (p : List Byte) (c : Byte), 11 ≤ p.length → p[P.deallocAnswerIndex.val]? = some c →
    (∀ (before more : DeallocCodeMap) (a : DeallocAnswer), P.deallocCodeMap = before ++ (c, a) :: more →
      (∀ entry ∈ before, entry.1 ≠ c) → deallocAnswer P p = a) ∧
    ((∀ entry ∈ P.deallocCodeMap, entry.1 ≠ c) → deallocAnswer P p = .error) ∧
    (P.deallocCodeMap = defaultDeallocCodes →
      (c.toNat = 1 → deallocAnswer P p = .grant) ∧ (c.toNat = 2 → deallocAnswer P p = .busy) ∧
      (c.toNat = 3 → deallocAnswer P p = .wrong) ∧ (c.toNat = 4 → deallocAnswer P p = .wrongTarget) ∧
      (c.toNat = 0 ∨ 5 ≤ c.toNat → deallocAnswer P p = .error))

/-- 45_request_tracking.md R224 and R225: the getters return the cached positions, none included, and change nothing;
in Off they are refused. -/
def Obligations.PositionGettersReturnTheCache : Prop :=
  ∀ s : State, s.blk.bringup ≠ .fatal →
    (s.blk.bringup = .off →
      exec .getNodePos s = .next { s with blk := markRefused .state s.blk } ∧
      exec .getMaxPos s = .next { s with blk := markRefused .state s.blk }) ∧
    (s.blk.bringup ≠ .off →
      exec .getNodePos s = .next { s with blk := { s.blk with
        trace := s.blk.trace ++ [.hostReturn (.position s.blk.nodePosition)] } } ∧
      exec .getMaxPos s = .next { s with blk := { s.blk with
        trace := s.blk.trace ++ [.hostReturn (.position s.blk.maxPosition)] } })

/-! ### The whole machine -/

/-- 10_state.md R48, R22, R33 and R47: the reset state meets the invariants. The model's choices it rests on: which
state `State.reset` is (log 5), and that its `refusedCode` is none (log 10), which `refused_iff_code` needs. -/
def Obligations.ResetMeetsTheInvariants : Prop :=
  BlockInv State.reset.blk ∧ TraceWf State.reset ∧ LockHistoryInv State.reset

/-- 10_state.md R48: from every state that meets the invariants of the block, a step leads to one that does. -/
def Obligations.EveryStepKeepsTheBlockInvariants : Prop :=
  ∀ s t : State, BlockInv s.blk → step s = .next t → BlockInv t.blk

/-- 10_state.md R48: the seven invariants in every state a run can reach. -/
def Obligations.ReachableStatesMeetTheInvariants : Prop :=
  ∀ s : State, Reachable s →
    (s.blk.bringup ≠ .fatal →
      (s.blk.mpSession ≠ none → s.blk.bringup = .operational) ∧
      (s.blk.irqArmed = .steadyState ↔ s.blk.bringup = .operational) ∧
      (s.blk.irqArmed = .oneShot ↔ s.blk.bringup = .awaitingFirstInterrupt) ∧
      (s.blk.settleArmed = true → s.blk.bringup = .resetting)) ∧
    (s.blk.bringup = .fatal ↔ s.blk.fault ≠ none) ∧
    (s.blk.lockPollActive = true → s.blk.transceiverLocked = false) ∧
    (∀ ses, s.blk.mpSession = some ses → 0 < ses.remaining.length)

/-- 44_lock_monitor.md R209: `Locked` and `Unlocked` alternate, between two RESETs, along every run, and the last one
says what `transceiverLocked` is. Log 17: across a RESET of a locked block two `Locked` follow each other. -/
def Obligations.LockEventsAlternateBetweenResets : Prop :=
  ∀ s t : State, BlockInv s.blk → LockHistoryInv s → step s = .next t → LockHistoryInv t

/-- 30_encoding.md R92 and R96, 20_memory.md R63, 60_exceptions.md R257: every event a step emits has its shape; no
Shutdown is ever emitted. -/
def Obligations.EveryStepKeepsTheTraceWellFormed : Prop :=
  ∀ s t : State, BlockInv s.blk → TraceWf s → step s = .next t → TraceWf t

/-- 10_state.md R32, R33, R41 and R20: no step clears a fault or the refused mark, the first refusal code stays, the
trace only grows, and the parameters never change. -/
def Obligations.StepsOnlyAddToTheRecord : Prop :=
  ∀ s t : State, step s = .next t →
    t.cfg = s.cfg ∧ (s.blk.fault ≠ none → t.blk.fault ≠ none) ∧
    (s.blk.refused = true → t.blk.refused = true ∧ t.blk.refusedCode = s.blk.refusedCode) ∧
    s.blk.trace <+: t.blk.trace

/-- 60_exceptions.md R240: the stimuli that access no register leave no RegRead or RegWrite, use no chip answer, and
never raise FATAL_TRANSPORT. -/
def Obligations.BusFreeStimuliTouchNoRegister : Prop :=
  ∀ (s t : State) (i : Instr), isBusFree i = true → exec i s = .next t →
    t.env.replies = s.env.replies ∧ (t.blk.fault = some .transport → s.blk.fault = some .transport) ∧
    ∃ evs : List Event, t.blk.trace = s.blk.trace ++ evs ∧ ∀ e ∈ evs, recordedAccess e = none
end

