-- ==== Sys2Proof/Laws/State.lean ====
section
/-! SUPPORT. One lemma per field per named update of the state, so that no proof unfolds a record update. -/

namespace Sys2Proof.Machine

section

variable (s : State)

@[simp] theorem emit_cfg (e : Event) : (emit e s).cfg = s.cfg := rfl
@[simp] theorem emit_env (e : Event) : (emit e s).env = s.env := rfl
@[simp] theorem emit_blk_bringup (e : Event) : (emit e s).blk.bringup = s.blk.bringup := rfl
@[simp] theorem emit_blk_irqArmed (e : Event) : (emit e s).blk.irqArmed = s.blk.irqArmed := rfl
@[simp] theorem emit_blk_resetLine (e : Event) : (emit e s).blk.resetLine = s.blk.resetLine := rfl
@[simp] theorem emit_blk_settleArmed (e : Event) : (emit e s).blk.settleArmed = s.blk.settleArmed := rfl
@[simp] theorem emit_blk_transceiverLocked (e : Event) :
    (emit e s).blk.transceiverLocked = s.blk.transceiverLocked := rfl
@[simp] theorem emit_blk_lockPollActive (e : Event) :
    (emit e s).blk.lockPollActive = s.blk.lockPollActive := rfl
@[simp] theorem emit_blk_mpSession (e : Event) : (emit e s).blk.mpSession = s.blk.mpSession := rfl
@[simp] theorem emit_blk_awaitAlloc (e : Event) : (emit e s).blk.awaitAlloc = s.blk.awaitAlloc := rfl
@[simp] theorem emit_blk_awaitGetSource (e : Event) :
    (emit e s).blk.awaitGetSource = s.blk.awaitGetSource := rfl
@[simp] theorem emit_blk_awaitDealloc (e : Event) : (emit e s).blk.awaitDealloc = s.blk.awaitDealloc := rfl
@[simp] theorem emit_blk_reqTimers (e : Event) : (emit e s).blk.reqTimers = s.blk.reqTimers := rfl
@[simp] theorem emit_blk_connectionLabel (e : Event) :
    (emit e s).blk.connectionLabel = s.blk.connectionLabel := rfl
@[simp] theorem emit_blk_allocResult (e : Event) : (emit e s).blk.allocResult = s.blk.allocResult := rfl
@[simp] theorem emit_blk_nodePosition (e : Event) : (emit e s).blk.nodePosition = s.blk.nodePosition := rfl
@[simp] theorem emit_blk_maxPosition (e : Event) : (emit e s).blk.maxPosition = s.blk.maxPosition := rfl
@[simp] theorem emit_blk_fault (e : Event) : (emit e s).blk.fault = s.blk.fault := rfl
@[simp] theorem emit_blk_refused (e : Event) : (emit e s).blk.refused = s.blk.refused := rfl
@[simp] theorem emit_blk_refusedCode (e : Event) : (emit e s).blk.refusedCode = s.blk.refusedCode := rfl
@[simp] theorem emit_blk_trace (e : Event) : (emit e s).blk.trace = s.blk.trace ++ [e] := rfl

@[simp] theorem raiseFault_cfg (c : FaultCode) : (raiseFault c s).cfg = s.cfg := rfl
@[simp] theorem raiseFault_env (c : FaultCode) : (raiseFault c s).env = s.env := rfl
@[simp] theorem raiseFault_blk_bringup (c : FaultCode) : (raiseFault c s).blk.bringup = .fatal := rfl
@[simp] theorem raiseFault_blk_irqArmed (c : FaultCode) :
    (raiseFault c s).blk.irqArmed = s.blk.irqArmed := rfl
@[simp] theorem raiseFault_blk_resetLine (c : FaultCode) :
    (raiseFault c s).blk.resetLine = s.blk.resetLine := rfl
@[simp] theorem raiseFault_blk_settleArmed (c : FaultCode) :
    (raiseFault c s).blk.settleArmed = s.blk.settleArmed := rfl
@[simp] theorem raiseFault_blk_transceiverLocked (c : FaultCode) :
    (raiseFault c s).blk.transceiverLocked = s.blk.transceiverLocked := rfl
@[simp] theorem raiseFault_blk_lockPollActive (c : FaultCode) :
    (raiseFault c s).blk.lockPollActive = s.blk.lockPollActive := rfl
@[simp] theorem raiseFault_blk_mpSession (c : FaultCode) :
    (raiseFault c s).blk.mpSession = s.blk.mpSession := rfl
@[simp] theorem raiseFault_blk_awaitAlloc (c : FaultCode) :
    (raiseFault c s).blk.awaitAlloc = s.blk.awaitAlloc := rfl
@[simp] theorem raiseFault_blk_awaitGetSource (c : FaultCode) :
    (raiseFault c s).blk.awaitGetSource = s.blk.awaitGetSource := rfl
@[simp] theorem raiseFault_blk_awaitDealloc (c : FaultCode) :
    (raiseFault c s).blk.awaitDealloc = s.blk.awaitDealloc := rfl
@[simp] theorem raiseFault_blk_reqTimers (c : FaultCode) :
    (raiseFault c s).blk.reqTimers = s.blk.reqTimers := rfl
@[simp] theorem raiseFault_blk_connectionLabel (c : FaultCode) :
    (raiseFault c s).blk.connectionLabel = s.blk.connectionLabel := rfl
@[simp] theorem raiseFault_blk_allocResult (c : FaultCode) :
    (raiseFault c s).blk.allocResult = s.blk.allocResult := rfl
@[simp] theorem raiseFault_blk_nodePosition (c : FaultCode) :
    (raiseFault c s).blk.nodePosition = s.blk.nodePosition := rfl
@[simp] theorem raiseFault_blk_maxPosition (c : FaultCode) :
    (raiseFault c s).blk.maxPosition = s.blk.maxPosition := rfl
@[simp] theorem raiseFault_blk_fault (c : FaultCode) : (raiseFault c s).blk.fault = some c := rfl
@[simp] theorem raiseFault_blk_refused (c : FaultCode) : (raiseFault c s).blk.refused = s.blk.refused := rfl
@[simp] theorem raiseFault_blk_refusedCode (c : FaultCode) :
    (raiseFault c s).blk.refusedCode = s.blk.refusedCode := rfl
@[simp] theorem raiseFault_blk_trace (c : FaultCode) : (raiseFault c s).blk.trace = s.blk.trace := rfl

@[simp] theorem refuse_cfg (c : RefusalCode) : (refuse c s).cfg = s.cfg := rfl
@[simp] theorem refuse_env (c : RefusalCode) : (refuse c s).env = s.env := rfl
@[simp] theorem refuse_blk_bringup (c : RefusalCode) : (refuse c s).blk.bringup = s.blk.bringup := rfl
@[simp] theorem refuse_blk_irqArmed (c : RefusalCode) : (refuse c s).blk.irqArmed = s.blk.irqArmed := rfl
@[simp] theorem refuse_blk_resetLine (c : RefusalCode) : (refuse c s).blk.resetLine = s.blk.resetLine := rfl
@[simp] theorem refuse_blk_settleArmed (c : RefusalCode) :
    (refuse c s).blk.settleArmed = s.blk.settleArmed := rfl
@[simp] theorem refuse_blk_transceiverLocked (c : RefusalCode) :
    (refuse c s).blk.transceiverLocked = s.blk.transceiverLocked := rfl
@[simp] theorem refuse_blk_lockPollActive (c : RefusalCode) :
    (refuse c s).blk.lockPollActive = s.blk.lockPollActive := rfl
@[simp] theorem refuse_blk_mpSession (c : RefusalCode) : (refuse c s).blk.mpSession = s.blk.mpSession := rfl
@[simp] theorem refuse_blk_awaitAlloc (c : RefusalCode) :
    (refuse c s).blk.awaitAlloc = s.blk.awaitAlloc := rfl
@[simp] theorem refuse_blk_awaitGetSource (c : RefusalCode) :
    (refuse c s).blk.awaitGetSource = s.blk.awaitGetSource := rfl
@[simp] theorem refuse_blk_awaitDealloc (c : RefusalCode) :
    (refuse c s).blk.awaitDealloc = s.blk.awaitDealloc := rfl
@[simp] theorem refuse_blk_reqTimers (c : RefusalCode) : (refuse c s).blk.reqTimers = s.blk.reqTimers := rfl
@[simp] theorem refuse_blk_connectionLabel (c : RefusalCode) :
    (refuse c s).blk.connectionLabel = s.blk.connectionLabel := rfl
@[simp] theorem refuse_blk_allocResult (c : RefusalCode) :
    (refuse c s).blk.allocResult = s.blk.allocResult := rfl
@[simp] theorem refuse_blk_nodePosition (c : RefusalCode) :
    (refuse c s).blk.nodePosition = s.blk.nodePosition := rfl
@[simp] theorem refuse_blk_maxPosition (c : RefusalCode) :
    (refuse c s).blk.maxPosition = s.blk.maxPosition := rfl
@[simp] theorem refuse_blk_fault (c : RefusalCode) : (refuse c s).blk.fault = s.blk.fault := rfl
@[simp] theorem refuse_blk_refused (c : RefusalCode) : (refuse c s).blk.refused = true := rfl
@[simp] theorem refuse_blk_refusedCode (c : RefusalCode) :
    (refuse c s).blk.refusedCode = if s.blk.refused then s.blk.refusedCode else some c := rfl
@[simp] theorem refuse_blk_trace (c : RefusalCode) : (refuse c s).blk.trace = s.blk.trace := rfl

@[simp] theorem armSettle_cfg : (arm .settle s).cfg = s.cfg := rfl
@[simp] theorem armSettle_env : (arm .settle s).env = s.env := rfl
@[simp] theorem armSettle_blk_bringup : (arm .settle s).blk.bringup = s.blk.bringup := rfl
@[simp] theorem armSettle_blk_irqArmed : (arm .settle s).blk.irqArmed = s.blk.irqArmed := rfl
@[simp] theorem armSettle_blk_resetLine : (arm .settle s).blk.resetLine = s.blk.resetLine := rfl
@[simp] theorem armSettle_blk_settleArmed : (arm .settle s).blk.settleArmed = true := rfl
@[simp] theorem armSettle_blk_transceiverLocked :
    (arm .settle s).blk.transceiverLocked = s.blk.transceiverLocked := rfl
@[simp] theorem armSettle_blk_lockPollActive :
    (arm .settle s).blk.lockPollActive = s.blk.lockPollActive := rfl
@[simp] theorem armSettle_blk_mpSession : (arm .settle s).blk.mpSession = s.blk.mpSession := rfl
@[simp] theorem armSettle_blk_awaitAlloc : (arm .settle s).blk.awaitAlloc = s.blk.awaitAlloc := rfl
@[simp] theorem armSettle_blk_awaitGetSource :
    (arm .settle s).blk.awaitGetSource = s.blk.awaitGetSource := rfl
@[simp] theorem armSettle_blk_awaitDealloc : (arm .settle s).blk.awaitDealloc = s.blk.awaitDealloc := rfl
@[simp] theorem armSettle_blk_reqTimers : (arm .settle s).blk.reqTimers = s.blk.reqTimers := rfl
@[simp] theorem armSettle_blk_connectionLabel :
    (arm .settle s).blk.connectionLabel = s.blk.connectionLabel := rfl
@[simp] theorem armSettle_blk_allocResult : (arm .settle s).blk.allocResult = s.blk.allocResult := rfl
@[simp] theorem armSettle_blk_nodePosition : (arm .settle s).blk.nodePosition = s.blk.nodePosition := rfl
@[simp] theorem armSettle_blk_maxPosition : (arm .settle s).blk.maxPosition = s.blk.maxPosition := rfl
@[simp] theorem armSettle_blk_fault : (arm .settle s).blk.fault = s.blk.fault := rfl
@[simp] theorem armSettle_blk_refused : (arm .settle s).blk.refused = s.blk.refused := rfl
@[simp] theorem armSettle_blk_refusedCode : (arm .settle s).blk.refusedCode = s.blk.refusedCode := rfl
@[simp] theorem armSettle_blk_trace : (arm .settle s).blk.trace = s.blk.trace := rfl

@[simp] theorem armLockPoll_cfg : (arm .lockPoll s).cfg = s.cfg := rfl
@[simp] theorem armLockPoll_env : (arm .lockPoll s).env = s.env := rfl
@[simp] theorem armLockPoll_blk_bringup : (arm .lockPoll s).blk.bringup = s.blk.bringup := rfl
@[simp] theorem armLockPoll_blk_irqArmed : (arm .lockPoll s).blk.irqArmed = s.blk.irqArmed := rfl
@[simp] theorem armLockPoll_blk_resetLine : (arm .lockPoll s).blk.resetLine = s.blk.resetLine := rfl
@[simp] theorem armLockPoll_blk_settleArmed : (arm .lockPoll s).blk.settleArmed = s.blk.settleArmed := rfl
@[simp] theorem armLockPoll_blk_transceiverLocked :
    (arm .lockPoll s).blk.transceiverLocked = s.blk.transceiverLocked := rfl
@[simp] theorem armLockPoll_blk_lockPollActive : (arm .lockPoll s).blk.lockPollActive = true := rfl
@[simp] theorem armLockPoll_blk_mpSession : (arm .lockPoll s).blk.mpSession = s.blk.mpSession := rfl
@[simp] theorem armLockPoll_blk_awaitAlloc : (arm .lockPoll s).blk.awaitAlloc = s.blk.awaitAlloc := rfl
@[simp] theorem armLockPoll_blk_awaitGetSource :
    (arm .lockPoll s).blk.awaitGetSource = s.blk.awaitGetSource := rfl
@[simp] theorem armLockPoll_blk_awaitDealloc : (arm .lockPoll s).blk.awaitDealloc = s.blk.awaitDealloc := rfl
@[simp] theorem armLockPoll_blk_reqTimers : (arm .lockPoll s).blk.reqTimers = s.blk.reqTimers := rfl
@[simp] theorem armLockPoll_blk_connectionLabel :
    (arm .lockPoll s).blk.connectionLabel = s.blk.connectionLabel := rfl
@[simp] theorem armLockPoll_blk_allocResult : (arm .lockPoll s).blk.allocResult = s.blk.allocResult := rfl
@[simp] theorem armLockPoll_blk_nodePosition : (arm .lockPoll s).blk.nodePosition = s.blk.nodePosition := rfl
@[simp] theorem armLockPoll_blk_maxPosition : (arm .lockPoll s).blk.maxPosition = s.blk.maxPosition := rfl
@[simp] theorem armLockPoll_blk_fault : (arm .lockPoll s).blk.fault = s.blk.fault := rfl
@[simp] theorem armLockPoll_blk_refused : (arm .lockPoll s).blk.refused = s.blk.refused := rfl
@[simp] theorem armLockPoll_blk_refusedCode : (arm .lockPoll s).blk.refusedCode = s.blk.refusedCode := rfl
@[simp] theorem armLockPoll_blk_trace : (arm .lockPoll s).blk.trace = s.blk.trace := rfl

@[simp] theorem disarmSettle_cfg : (disarm .settle s).cfg = s.cfg := rfl
@[simp] theorem disarmSettle_env : (disarm .settle s).env = s.env := rfl
@[simp] theorem disarmSettle_blk_bringup : (disarm .settle s).blk.bringup = s.blk.bringup := rfl
@[simp] theorem disarmSettle_blk_irqArmed : (disarm .settle s).blk.irqArmed = s.blk.irqArmed := rfl
@[simp] theorem disarmSettle_blk_resetLine : (disarm .settle s).blk.resetLine = s.blk.resetLine := rfl
@[simp] theorem disarmSettle_blk_settleArmed : (disarm .settle s).blk.settleArmed = false := rfl
@[simp] theorem disarmSettle_blk_transceiverLocked :
    (disarm .settle s).blk.transceiverLocked = s.blk.transceiverLocked := rfl
@[simp] theorem disarmSettle_blk_lockPollActive :
    (disarm .settle s).blk.lockPollActive = s.blk.lockPollActive := rfl
@[simp] theorem disarmSettle_blk_mpSession : (disarm .settle s).blk.mpSession = s.blk.mpSession := rfl
@[simp] theorem disarmSettle_blk_awaitAlloc : (disarm .settle s).blk.awaitAlloc = s.blk.awaitAlloc := rfl
@[simp] theorem disarmSettle_blk_awaitGetSource :
    (disarm .settle s).blk.awaitGetSource = s.blk.awaitGetSource := rfl
@[simp] theorem disarmSettle_blk_awaitDealloc :
    (disarm .settle s).blk.awaitDealloc = s.blk.awaitDealloc := rfl
@[simp] theorem disarmSettle_blk_reqTimers : (disarm .settle s).blk.reqTimers = s.blk.reqTimers := rfl
@[simp] theorem disarmSettle_blk_connectionLabel :
    (disarm .settle s).blk.connectionLabel = s.blk.connectionLabel := rfl
@[simp] theorem disarmSettle_blk_allocResult : (disarm .settle s).blk.allocResult = s.blk.allocResult := rfl
@[simp] theorem disarmSettle_blk_nodePosition :
    (disarm .settle s).blk.nodePosition = s.blk.nodePosition := rfl
@[simp] theorem disarmSettle_blk_maxPosition : (disarm .settle s).blk.maxPosition = s.blk.maxPosition := rfl
@[simp] theorem disarmSettle_blk_fault : (disarm .settle s).blk.fault = s.blk.fault := rfl
@[simp] theorem disarmSettle_blk_refused : (disarm .settle s).blk.refused = s.blk.refused := rfl
@[simp] theorem disarmSettle_blk_refusedCode : (disarm .settle s).blk.refusedCode = s.blk.refusedCode := rfl
@[simp] theorem disarmSettle_blk_trace : (disarm .settle s).blk.trace = s.blk.trace := rfl

@[simp] theorem disarmLockPoll_cfg : (disarm .lockPoll s).cfg = s.cfg := rfl
@[simp] theorem disarmLockPoll_env : (disarm .lockPoll s).env = s.env := rfl
@[simp] theorem disarmLockPoll_blk_bringup : (disarm .lockPoll s).blk.bringup = s.blk.bringup := rfl
@[simp] theorem disarmLockPoll_blk_irqArmed : (disarm .lockPoll s).blk.irqArmed = s.blk.irqArmed := rfl
@[simp] theorem disarmLockPoll_blk_resetLine : (disarm .lockPoll s).blk.resetLine = s.blk.resetLine := rfl
@[simp] theorem disarmLockPoll_blk_settleArmed :
    (disarm .lockPoll s).blk.settleArmed = s.blk.settleArmed := rfl
@[simp] theorem disarmLockPoll_blk_transceiverLocked :
    (disarm .lockPoll s).blk.transceiverLocked = s.blk.transceiverLocked := rfl
@[simp] theorem disarmLockPoll_blk_lockPollActive : (disarm .lockPoll s).blk.lockPollActive = false := rfl
@[simp] theorem disarmLockPoll_blk_mpSession : (disarm .lockPoll s).blk.mpSession = s.blk.mpSession := rfl
@[simp] theorem disarmLockPoll_blk_awaitAlloc : (disarm .lockPoll s).blk.awaitAlloc = s.blk.awaitAlloc := rfl
@[simp] theorem disarmLockPoll_blk_awaitGetSource :
    (disarm .lockPoll s).blk.awaitGetSource = s.blk.awaitGetSource := rfl
@[simp] theorem disarmLockPoll_blk_awaitDealloc :
    (disarm .lockPoll s).blk.awaitDealloc = s.blk.awaitDealloc := rfl
@[simp] theorem disarmLockPoll_blk_reqTimers : (disarm .lockPoll s).blk.reqTimers = s.blk.reqTimers := rfl
@[simp] theorem disarmLockPoll_blk_connectionLabel :
    (disarm .lockPoll s).blk.connectionLabel = s.blk.connectionLabel := rfl
@[simp] theorem disarmLockPoll_blk_allocResult :
    (disarm .lockPoll s).blk.allocResult = s.blk.allocResult := rfl
@[simp] theorem disarmLockPoll_blk_nodePosition :
    (disarm .lockPoll s).blk.nodePosition = s.blk.nodePosition := rfl
@[simp] theorem disarmLockPoll_blk_maxPosition :
    (disarm .lockPoll s).blk.maxPosition = s.blk.maxPosition := rfl
@[simp] theorem disarmLockPoll_blk_fault : (disarm .lockPoll s).blk.fault = s.blk.fault := rfl
@[simp] theorem disarmLockPoll_blk_refused : (disarm .lockPoll s).blk.refused = s.blk.refused := rfl
@[simp] theorem disarmLockPoll_blk_refusedCode :
    (disarm .lockPoll s).blk.refusedCode = s.blk.refusedCode := rfl
@[simp] theorem disarmLockPoll_blk_trace : (disarm .lockPoll s).blk.trace = s.blk.trace := rfl

@[simp] theorem armReq_cfg (k : ReqKind) : (armReq k s).cfg = s.cfg := rfl
@[simp] theorem armReq_env (k : ReqKind) : (armReq k s).env = s.env := rfl
@[simp] theorem armReq_blk_bringup (k : ReqKind) : (armReq k s).blk.bringup = s.blk.bringup := rfl
@[simp] theorem armReq_blk_irqArmed (k : ReqKind) : (armReq k s).blk.irqArmed = s.blk.irqArmed := rfl
@[simp] theorem armReq_blk_resetLine (k : ReqKind) : (armReq k s).blk.resetLine = s.blk.resetLine := rfl
@[simp] theorem armReq_blk_settleArmed (k : ReqKind) : (armReq k s).blk.settleArmed = s.blk.settleArmed := rfl
@[simp] theorem armReq_blk_transceiverLocked (k : ReqKind) :
    (armReq k s).blk.transceiverLocked = s.blk.transceiverLocked := rfl
@[simp] theorem armReq_blk_lockPollActive (k : ReqKind) :
    (armReq k s).blk.lockPollActive = s.blk.lockPollActive := rfl
@[simp] theorem armReq_blk_mpSession (k : ReqKind) : (armReq k s).blk.mpSession = s.blk.mpSession := rfl
@[simp] theorem armReq_blk_awaitAlloc (k : ReqKind) : (armReq k s).blk.awaitAlloc = s.blk.awaitAlloc := rfl
@[simp] theorem armReq_blk_awaitGetSource (k : ReqKind) :
    (armReq k s).blk.awaitGetSource = s.blk.awaitGetSource := rfl
@[simp] theorem armReq_blk_awaitDealloc (k : ReqKind) :
    (armReq k s).blk.awaitDealloc = s.blk.awaitDealloc := rfl
@[simp] theorem armReq_blk_reqTimers (k : ReqKind) :
    (armReq k s).blk.reqTimers = setReqCount s.blk.reqTimers k (reqCount s.blk.reqTimers k + 1) := rfl
@[simp] theorem armReq_blk_connectionLabel (k : ReqKind) :
    (armReq k s).blk.connectionLabel = s.blk.connectionLabel := rfl
@[simp] theorem armReq_blk_allocResult (k : ReqKind) : (armReq k s).blk.allocResult = s.blk.allocResult := rfl
@[simp] theorem armReq_blk_nodePosition (k : ReqKind) :
    (armReq k s).blk.nodePosition = s.blk.nodePosition := rfl
@[simp] theorem armReq_blk_maxPosition (k : ReqKind) : (armReq k s).blk.maxPosition = s.blk.maxPosition := rfl
@[simp] theorem armReq_blk_fault (k : ReqKind) : (armReq k s).blk.fault = s.blk.fault := rfl
@[simp] theorem armReq_blk_refused (k : ReqKind) : (armReq k s).blk.refused = s.blk.refused := rfl
@[simp] theorem armReq_blk_refusedCode (k : ReqKind) : (armReq k s).blk.refusedCode = s.blk.refusedCode := rfl
@[simp] theorem armReq_blk_trace (k : ReqKind) : (armReq k s).blk.trace = s.blk.trace := rfl

@[simp] theorem expireReq_cfg (k : ReqKind) : (expireReq k s).cfg = s.cfg := rfl
@[simp] theorem expireReq_env (k : ReqKind) : (expireReq k s).env = s.env := rfl
@[simp] theorem expireReq_blk_bringup (k : ReqKind) : (expireReq k s).blk.bringup = s.blk.bringup := rfl
@[simp] theorem expireReq_blk_irqArmed (k : ReqKind) : (expireReq k s).blk.irqArmed = s.blk.irqArmed := rfl
@[simp] theorem expireReq_blk_resetLine (k : ReqKind) : (expireReq k s).blk.resetLine = s.blk.resetLine := rfl
@[simp] theorem expireReq_blk_settleArmed (k : ReqKind) :
    (expireReq k s).blk.settleArmed = s.blk.settleArmed := rfl
@[simp] theorem expireReq_blk_transceiverLocked (k : ReqKind) :
    (expireReq k s).blk.transceiverLocked = s.blk.transceiverLocked := rfl
@[simp] theorem expireReq_blk_lockPollActive (k : ReqKind) :
    (expireReq k s).blk.lockPollActive = s.blk.lockPollActive := rfl
@[simp] theorem expireReq_blk_mpSession (k : ReqKind) : (expireReq k s).blk.mpSession = s.blk.mpSession := rfl
@[simp] theorem expireReq_blk_awaitAlloc (k : ReqKind) :
    (expireReq k s).blk.awaitAlloc = s.blk.awaitAlloc := rfl
@[simp] theorem expireReq_blk_awaitGetSource (k : ReqKind) :
    (expireReq k s).blk.awaitGetSource = s.blk.awaitGetSource := rfl
@[simp] theorem expireReq_blk_awaitDealloc (k : ReqKind) :
    (expireReq k s).blk.awaitDealloc = s.blk.awaitDealloc := rfl
@[simp] theorem expireReq_blk_reqTimers (k : ReqKind) :
    (expireReq k s).blk.reqTimers = setReqCount s.blk.reqTimers k (reqCount s.blk.reqTimers k - 1) := rfl
@[simp] theorem expireReq_blk_connectionLabel (k : ReqKind) :
    (expireReq k s).blk.connectionLabel = s.blk.connectionLabel := rfl
@[simp] theorem expireReq_blk_allocResult (k : ReqKind) :
    (expireReq k s).blk.allocResult = s.blk.allocResult := rfl
@[simp] theorem expireReq_blk_nodePosition (k : ReqKind) :
    (expireReq k s).blk.nodePosition = s.blk.nodePosition := rfl
@[simp] theorem expireReq_blk_maxPosition (k : ReqKind) :
    (expireReq k s).blk.maxPosition = s.blk.maxPosition := rfl
@[simp] theorem expireReq_blk_fault (k : ReqKind) : (expireReq k s).blk.fault = s.blk.fault := rfl
@[simp] theorem expireReq_blk_refused (k : ReqKind) : (expireReq k s).blk.refused = s.blk.refused := rfl
@[simp] theorem expireReq_blk_refusedCode (k : ReqKind) :
    (expireReq k s).blk.refusedCode = s.blk.refusedCode := rfl
@[simp] theorem expireReq_blk_trace (k : ReqKind) : (expireReq k s).blk.trace = s.blk.trace := rfl

@[simp] theorem setAwait_cfg (k : ReqKind) (v : Bool) : (setAwait k v s).cfg = s.cfg := rfl
@[simp] theorem setAwait_env (k : ReqKind) (v : Bool) : (setAwait k v s).env = s.env := rfl
@[simp] theorem setAwait_blk_bringup (k : ReqKind) (v : Bool) :
    (setAwait k v s).blk.bringup = s.blk.bringup := by cases k <;> rfl
@[simp] theorem setAwait_blk_irqArmed (k : ReqKind) (v : Bool) :
    (setAwait k v s).blk.irqArmed = s.blk.irqArmed := by cases k <;> rfl
@[simp] theorem setAwait_blk_resetLine (k : ReqKind) (v : Bool) :
    (setAwait k v s).blk.resetLine = s.blk.resetLine := by cases k <;> rfl
@[simp] theorem setAwait_blk_settleArmed (k : ReqKind) (v : Bool) :
    (setAwait k v s).blk.settleArmed = s.blk.settleArmed := by cases k <;> rfl
@[simp] theorem setAwait_blk_transceiverLocked (k : ReqKind) (v : Bool) :
    (setAwait k v s).blk.transceiverLocked = s.blk.transceiverLocked := by cases k <;> rfl
@[simp] theorem setAwait_blk_lockPollActive (k : ReqKind) (v : Bool) :
    (setAwait k v s).blk.lockPollActive = s.blk.lockPollActive := by cases k <;> rfl
@[simp] theorem setAwait_blk_mpSession (k : ReqKind) (v : Bool) :
    (setAwait k v s).blk.mpSession = s.blk.mpSession := by cases k <;> rfl
@[simp] theorem setAwait_blk_reqTimers (k : ReqKind) (v : Bool) :
    (setAwait k v s).blk.reqTimers = s.blk.reqTimers := by cases k <;> rfl
@[simp] theorem setAwait_blk_connectionLabel (k : ReqKind) (v : Bool) :
    (setAwait k v s).blk.connectionLabel = s.blk.connectionLabel := by cases k <;> rfl
@[simp] theorem setAwait_blk_allocResult (k : ReqKind) (v : Bool) :
    (setAwait k v s).blk.allocResult = s.blk.allocResult := by cases k <;> rfl
@[simp] theorem setAwait_blk_nodePosition (k : ReqKind) (v : Bool) :
    (setAwait k v s).blk.nodePosition = s.blk.nodePosition := by cases k <;> rfl
@[simp] theorem setAwait_blk_maxPosition (k : ReqKind) (v : Bool) :
    (setAwait k v s).blk.maxPosition = s.blk.maxPosition := by cases k <;> rfl
@[simp] theorem setAwait_blk_fault (k : ReqKind) (v : Bool) :
    (setAwait k v s).blk.fault = s.blk.fault := by cases k <;> rfl
@[simp] theorem setAwait_blk_refused (k : ReqKind) (v : Bool) :
    (setAwait k v s).blk.refused = s.blk.refused := by cases k <;> rfl
@[simp] theorem setAwait_blk_refusedCode (k : ReqKind) (v : Bool) :
    (setAwait k v s).blk.refusedCode = s.blk.refusedCode := by cases k <;> rfl
@[simp] theorem setAwait_blk_trace (k : ReqKind) (v : Bool) :
    (setAwait k v s).blk.trace = s.blk.trace := by cases k <;> rfl

@[simp] theorem setSession_cfg (x : Option Session) : (setSession x s).cfg = s.cfg := rfl
@[simp] theorem setSession_env (x : Option Session) : (setSession x s).env = s.env := rfl
@[simp] theorem setSession_blk_bringup (x : Option Session) :
    (setSession x s).blk.bringup = s.blk.bringup := rfl
@[simp] theorem setSession_blk_irqArmed (x : Option Session) :
    (setSession x s).blk.irqArmed = s.blk.irqArmed := rfl
@[simp] theorem setSession_blk_resetLine (x : Option Session) :
    (setSession x s).blk.resetLine = s.blk.resetLine := rfl
@[simp] theorem setSession_blk_settleArmed (x : Option Session) :
    (setSession x s).blk.settleArmed = s.blk.settleArmed := rfl
@[simp] theorem setSession_blk_transceiverLocked (x : Option Session) :
    (setSession x s).blk.transceiverLocked = s.blk.transceiverLocked := rfl
@[simp] theorem setSession_blk_lockPollActive (x : Option Session) :
    (setSession x s).blk.lockPollActive = s.blk.lockPollActive := rfl
@[simp] theorem setSession_blk_mpSession (x : Option Session) : (setSession x s).blk.mpSession = x := rfl
@[simp] theorem setSession_blk_awaitAlloc (x : Option Session) :
    (setSession x s).blk.awaitAlloc = s.blk.awaitAlloc := rfl
@[simp] theorem setSession_blk_awaitGetSource (x : Option Session) :
    (setSession x s).blk.awaitGetSource = s.blk.awaitGetSource := rfl
@[simp] theorem setSession_blk_awaitDealloc (x : Option Session) :
    (setSession x s).blk.awaitDealloc = s.blk.awaitDealloc := rfl
@[simp] theorem setSession_blk_reqTimers (x : Option Session) :
    (setSession x s).blk.reqTimers = s.blk.reqTimers := rfl
@[simp] theorem setSession_blk_connectionLabel (x : Option Session) :
    (setSession x s).blk.connectionLabel = s.blk.connectionLabel := rfl
@[simp] theorem setSession_blk_allocResult (x : Option Session) :
    (setSession x s).blk.allocResult = s.blk.allocResult := rfl
@[simp] theorem setSession_blk_nodePosition (x : Option Session) :
    (setSession x s).blk.nodePosition = s.blk.nodePosition := rfl
@[simp] theorem setSession_blk_maxPosition (x : Option Session) :
    (setSession x s).blk.maxPosition = s.blk.maxPosition := rfl
@[simp] theorem setSession_blk_fault (x : Option Session) : (setSession x s).blk.fault = s.blk.fault := rfl
@[simp] theorem setSession_blk_refused (x : Option Session) :
    (setSession x s).blk.refused = s.blk.refused := rfl
@[simp] theorem setSession_blk_refusedCode (x : Option Session) :
    (setSession x s).blk.refusedCode = s.blk.refusedCode := rfl
@[simp] theorem setSession_blk_trace (x : Option Session) : (setSession x s).blk.trace = s.blk.trace := rfl

@[simp] theorem setLocked_cfg (v : Bool) : (setLocked v s).cfg = s.cfg := rfl
@[simp] theorem setLocked_env (v : Bool) : (setLocked v s).env = s.env := rfl
@[simp] theorem setLocked_blk_bringup (v : Bool) : (setLocked v s).blk.bringup = s.blk.bringup := rfl
@[simp] theorem setLocked_blk_irqArmed (v : Bool) : (setLocked v s).blk.irqArmed = s.blk.irqArmed := rfl
@[simp] theorem setLocked_blk_resetLine (v : Bool) : (setLocked v s).blk.resetLine = s.blk.resetLine := rfl
@[simp] theorem setLocked_blk_settleArmed (v : Bool) :
    (setLocked v s).blk.settleArmed = s.blk.settleArmed := rfl
@[simp] theorem setLocked_blk_transceiverLocked (v : Bool) : (setLocked v s).blk.transceiverLocked = v := rfl
@[simp] theorem setLocked_blk_lockPollActive (v : Bool) :
    (setLocked v s).blk.lockPollActive = s.blk.lockPollActive := rfl
@[simp] theorem setLocked_blk_mpSession (v : Bool) : (setLocked v s).blk.mpSession = s.blk.mpSession := rfl
@[simp] theorem setLocked_blk_awaitAlloc (v : Bool) : (setLocked v s).blk.awaitAlloc = s.blk.awaitAlloc := rfl
@[simp] theorem setLocked_blk_awaitGetSource (v : Bool) :
    (setLocked v s).blk.awaitGetSource = s.blk.awaitGetSource := rfl
@[simp] theorem setLocked_blk_awaitDealloc (v : Bool) :
    (setLocked v s).blk.awaitDealloc = s.blk.awaitDealloc := rfl
@[simp] theorem setLocked_blk_reqTimers (v : Bool) : (setLocked v s).blk.reqTimers = s.blk.reqTimers := rfl
@[simp] theorem setLocked_blk_connectionLabel (v : Bool) :
    (setLocked v s).blk.connectionLabel = s.blk.connectionLabel := rfl
@[simp] theorem setLocked_blk_allocResult (v : Bool) :
    (setLocked v s).blk.allocResult = s.blk.allocResult := rfl
@[simp] theorem setLocked_blk_nodePosition (v : Bool) :
    (setLocked v s).blk.nodePosition = s.blk.nodePosition := rfl
@[simp] theorem setLocked_blk_maxPosition (v : Bool) :
    (setLocked v s).blk.maxPosition = s.blk.maxPosition := rfl
@[simp] theorem setLocked_blk_fault (v : Bool) : (setLocked v s).blk.fault = s.blk.fault := rfl
@[simp] theorem setLocked_blk_refused (v : Bool) : (setLocked v s).blk.refused = s.blk.refused := rfl
@[simp] theorem setLocked_blk_refusedCode (v : Bool) :
    (setLocked v s).blk.refusedCode = s.blk.refusedCode := rfl
@[simp] theorem setLocked_blk_trace (v : Bool) : (setLocked v s).blk.trace = s.blk.trace := rfl

@[simp] theorem recordAlloc_cfg (r : AllocationResult) : (recordAlloc r s).cfg = s.cfg := rfl
@[simp] theorem recordAlloc_env (r : AllocationResult) : (recordAlloc r s).env = s.env := rfl
@[simp] theorem recordAlloc_blk_bringup (r : AllocationResult) :
    (recordAlloc r s).blk.bringup = s.blk.bringup := rfl
@[simp] theorem recordAlloc_blk_irqArmed (r : AllocationResult) :
    (recordAlloc r s).blk.irqArmed = s.blk.irqArmed := rfl
@[simp] theorem recordAlloc_blk_resetLine (r : AllocationResult) :
    (recordAlloc r s).blk.resetLine = s.blk.resetLine := rfl
@[simp] theorem recordAlloc_blk_settleArmed (r : AllocationResult) :
    (recordAlloc r s).blk.settleArmed = s.blk.settleArmed := rfl
@[simp] theorem recordAlloc_blk_transceiverLocked (r : AllocationResult) :
    (recordAlloc r s).blk.transceiverLocked = s.blk.transceiverLocked := rfl
@[simp] theorem recordAlloc_blk_lockPollActive (r : AllocationResult) :
    (recordAlloc r s).blk.lockPollActive = s.blk.lockPollActive := rfl
@[simp] theorem recordAlloc_blk_mpSession (r : AllocationResult) :
    (recordAlloc r s).blk.mpSession = s.blk.mpSession := rfl
@[simp] theorem recordAlloc_blk_awaitAlloc (r : AllocationResult) :
    (recordAlloc r s).blk.awaitAlloc = s.blk.awaitAlloc := rfl
@[simp] theorem recordAlloc_blk_awaitGetSource (r : AllocationResult) :
    (recordAlloc r s).blk.awaitGetSource = s.blk.awaitGetSource := rfl
@[simp] theorem recordAlloc_blk_awaitDealloc (r : AllocationResult) :
    (recordAlloc r s).blk.awaitDealloc = s.blk.awaitDealloc := rfl
@[simp] theorem recordAlloc_blk_reqTimers (r : AllocationResult) :
    (recordAlloc r s).blk.reqTimers = s.blk.reqTimers := rfl
@[simp] theorem recordAlloc_blk_connectionLabel (r : AllocationResult) :
    (recordAlloc r s).blk.connectionLabel = some r.connectionLabel := rfl
@[simp] theorem recordAlloc_blk_allocResult (r : AllocationResult) :
    (recordAlloc r s).blk.allocResult = some r := rfl
@[simp] theorem recordAlloc_blk_nodePosition (r : AllocationResult) :
    (recordAlloc r s).blk.nodePosition = s.blk.nodePosition := rfl
@[simp] theorem recordAlloc_blk_maxPosition (r : AllocationResult) :
    (recordAlloc r s).blk.maxPosition = s.blk.maxPosition := rfl
@[simp] theorem recordAlloc_blk_fault (r : AllocationResult) :
    (recordAlloc r s).blk.fault = s.blk.fault := rfl
@[simp] theorem recordAlloc_blk_refused (r : AllocationResult) :
    (recordAlloc r s).blk.refused = s.blk.refused := rfl
@[simp] theorem recordAlloc_blk_refusedCode (r : AllocationResult) :
    (recordAlloc r s).blk.refusedCode = s.blk.refusedCode := rfl
@[simp] theorem recordAlloc_blk_trace (r : AllocationResult) :
    (recordAlloc r s).blk.trace = s.blk.trace := rfl

@[simp] theorem onBlock_cfg (f : Block → Block) : (onBlock f s).cfg = s.cfg := rfl
@[simp] theorem onBlock_env (f : Block → Block) : (onBlock f s).env = s.env := rfl
@[simp] theorem onBlock_blk (f : Block → Block) : (onBlock f s).blk = f s.blk := rfl

@[simp] theorem takeReply_cfg : (takeReply s).cfg = s.cfg := rfl
@[simp] theorem takeReply_blk : (takeReply s).blk = s.blk := rfl
@[simp] theorem takeReply_env_program : (takeReply s).env.program = s.env.program := rfl
@[simp] theorem takeReply_env_consumed : (takeReply s).env.consumed = s.env.consumed := rfl
@[simp] theorem takeReply_env_ended : (takeReply s).env.ended = s.env.ended := rfl
@[simp] theorem takeReply_env_replies : (takeReply s).env.replies = s.env.replies.tail := rfl
@[simp] theorem takeReply_env_ncDraws : (takeReply s).env.ncDraws = s.env.ncDraws := rfl
@[simp] theorem takeReply_env_gateDraws : (takeReply s).env.gateDraws = s.env.gateDraws := rfl
@[simp] theorem takeReply_env_draws : (takeReply s).env.draws = s.env.draws + 1 := rfl

@[simp] theorem takeNcDraw_cfg : (takeNcDraw s).cfg = s.cfg := rfl
@[simp] theorem takeNcDraw_blk : (takeNcDraw s).blk = s.blk := rfl
@[simp] theorem takeNcDraw_env_program : (takeNcDraw s).env.program = s.env.program := rfl
@[simp] theorem takeNcDraw_env_consumed : (takeNcDraw s).env.consumed = s.env.consumed := rfl
@[simp] theorem takeNcDraw_env_ended : (takeNcDraw s).env.ended = s.env.ended := rfl
@[simp] theorem takeNcDraw_env_replies : (takeNcDraw s).env.replies = s.env.replies := rfl
@[simp] theorem takeNcDraw_env_ncDraws : (takeNcDraw s).env.ncDraws = s.env.ncDraws.tail := rfl
@[simp] theorem takeNcDraw_env_gateDraws : (takeNcDraw s).env.gateDraws = s.env.gateDraws := rfl
@[simp] theorem takeNcDraw_env_draws : (takeNcDraw s).env.draws = s.env.draws + 1 := rfl

@[simp] theorem takeGateDraw_cfg : (takeGateDraw s).cfg = s.cfg := rfl
@[simp] theorem takeGateDraw_blk : (takeGateDraw s).blk = s.blk := rfl
@[simp] theorem takeGateDraw_env_program : (takeGateDraw s).env.program = s.env.program := rfl
@[simp] theorem takeGateDraw_env_consumed : (takeGateDraw s).env.consumed = s.env.consumed := rfl
@[simp] theorem takeGateDraw_env_ended : (takeGateDraw s).env.ended = s.env.ended := rfl
@[simp] theorem takeGateDraw_env_replies : (takeGateDraw s).env.replies = s.env.replies := rfl
@[simp] theorem takeGateDraw_env_ncDraws : (takeGateDraw s).env.ncDraws = s.env.ncDraws := rfl
@[simp] theorem takeGateDraw_env_gateDraws : (takeGateDraw s).env.gateDraws = s.env.gateDraws.tail := rfl
@[simp] theorem takeGateDraw_env_draws : (takeGateDraw s).env.draws = s.env.draws + 1 := rfl

@[simp] theorem present_cfg (rest : List Byte) : (present rest s).cfg = s.cfg := rfl
@[simp] theorem present_blk (rest : List Byte) : (present rest s).blk = s.blk := rfl
@[simp] theorem present_env_program (rest : List Byte) : (present rest s).env.program = rest := rfl
@[simp] theorem present_env_consumed (rest : List Byte) :
    (present rest s).env.consumed = s.env.consumed + (s.env.program.length - rest.length) := rfl
@[simp] theorem present_env_ended (rest : List Byte) : (present rest s).env.ended = s.env.ended := rfl
@[simp] theorem present_env_replies (rest : List Byte) : (present rest s).env.replies = s.env.replies := rfl
@[simp] theorem present_env_ncDraws (rest : List Byte) : (present rest s).env.ncDraws = s.env.ncDraws := rfl
@[simp] theorem present_env_gateDraws (rest : List Byte) :
    (present rest s).env.gateDraws = s.env.gateDraws := rfl
@[simp] theorem present_env_draws (rest : List Byte) : (present rest s).env.draws = s.env.draws := rfl

@[simp] theorem loadProgram_cfg (bytes : List Byte) : (loadProgram bytes s).cfg = s.cfg := rfl
@[simp] theorem loadProgram_blk (bytes : List Byte) : (loadProgram bytes s).blk = s.blk := rfl
@[simp] theorem loadProgram_env_program (bytes : List Byte) : (loadProgram bytes s).env.program = bytes := rfl
@[simp] theorem loadProgram_env_consumed (bytes : List Byte) :
    (loadProgram bytes s).env.consumed = s.env.consumed := rfl
@[simp] theorem loadProgram_env_ended (bytes : List Byte) : (loadProgram bytes s).env.ended = none := rfl
@[simp] theorem loadProgram_env_replies (bytes : List Byte) :
    (loadProgram bytes s).env.replies = s.env.replies := rfl
@[simp] theorem loadProgram_env_ncDraws (bytes : List Byte) :
    (loadProgram bytes s).env.ncDraws = s.env.ncDraws := rfl
@[simp] theorem loadProgram_env_gateDraws (bytes : List Byte) :
    (loadProgram bytes s).env.gateDraws = s.env.gateDraws := rfl
@[simp] theorem loadProgram_env_draws (bytes : List Byte) :
    (loadProgram bytes s).env.draws = s.env.draws := rfl

/-- The flag `setAwait` writes, and the two it leaves. -/
@[simp] theorem setAwait_awaiting (k j : ReqKind) (v : Bool) :
    awaiting (setAwait k v s).blk j = if j = k then v else awaiting s.blk j := by
  cases k <;> cases j <;> rfl

/-- A count reads back where it was written, and nowhere else. -/
@[simp] theorem reqCount_setReqCount (t : ReqTimers) (k j : ReqKind) (n : Nat) :
    reqCount (setReqCount t k n) j = if j = k then n else reqCount t j := by
  cases k <;> cases j <;> rfl

end

end Sys2Proof.Machine
end

