-- ==== Sys2Proof/Laws/Bus.lean ====
section
/-! SUPPORT. What the two register accesses and the operations built from them can do, said once: a fault, a refusal, or
the continuation after the event. -/

namespace Sys2Proof.Machine

/-! ### Answers -/

theorem answerBytes_length (acc : Access) (s : State) (data : List Byte) :
    (answerBytes acc s data).length = accessWidth acc := by
  simp [answerBytes]

/-- The chip answers an access with exactly as many bytes as it has. -/
theorem busReply_length {acc : Access} {s : State} {data : List Byte} (h : busReply acc s = some data) :
    data.length = accessWidth acc := by
  unfold busReply at h
  split at h
  · cases h
  · cases h; exact answerBytes_length ..
  · split at h
    · cases h
    · cases h; exact answerBytes_length ..

/-- The answer depends on the chip's next answers, the draw counter and the trace only. -/
theorem busReply_congr {s t : State} (acc : Access) (hr : t.env.replies = s.env.replies)
    (hd : t.env.draws = s.env.draws) (ht : t.blk.trace = s.blk.trace) : busReply acc t = busReply acc s := by
  simp only [busReply, answerBytes, hr, hd, ht]

/-- A write is answered with one byte. -/
theorem busReply_write_eq {s : State} {a v : Byte} {data : List Byte}
    (h : busReply (.write a v) s = some data) : data = [byteAt data 0] := by
  have hl := busReply_length h
  match data, hl with
  | [x], _ => rfl

/-- A read of one byte is answered with one byte. -/
theorem busReply_byte_eq {s : State} {a : Byte} {data : List Byte}
    (h : busReply (.read a 1#8) s = some data) : data = [byteAt data 0] := by
  have hl := busReply_length h
  match data, hl with
  | [x], _ => rfl

/-! ### The accesses -/

/-- Every one-byte access is within the bounds (20_memory.md R67). -/
theorem burstInBounds_one (a : Byte) : burstInBounds a 1#8 = true := by
  have := a.isLt
  simp [burstInBounds]
  omega

/-- The two 20-byte buffers are within the bounds when the parameters are (R70). -/
theorem burstInBounds_rxBuf {P : Params} (h : P.wellFormed = true) : burstInBounds P.regRxBuf 20#8 = true := by
  simp [Params.wellFormed] at h
  simp [burstInBounds]
  omega

theorem burstInBounds_mbox {P : Params} (h : P.wellFormed = true) : burstInBounds P.regMbox 20#8 = true := by
  simp [Params.wellFormed] at h
  simp [burstInBounds]
  omega

/-- Everything `MemRead` can do: the refusal out of bounds, the transport fault, or `k` of the answer. -/
theorem memRead_cases (a n : Byte) (k : List Byte → State → State) (s : State) :
    (burstInBounds a n = false ∧ memRead a n k s = refuse .fieldRange s) ∨
    (busReply (.read a n) s = none ∧ memRead a n k s = raiseFault .transport (takeReply s)) ∨
    (∃ data, busReply (.read a n) s = some data ∧ burstInBounds a n = true ∧ data.length = n.toNat ∧
      memRead a n k s = k data (emit (.regRead a n data) (takeReply s))) := by
  unfold memRead
  cases hb : burstInBounds a n with
  | false => exact .inl ⟨rfl, by simp⟩
  | true =>
    cases hr : busReply (.read a n) s with
    | none => exact .inr (.inl ⟨rfl, by simp⟩)
    | some data => exact .inr (.inr ⟨data, rfl, rfl, busReply_length hr, by simp⟩)

/-- Everything a one-byte read can do. -/
theorem memReadByte_cases (a : Byte) (k : Byte → State → State) (s : State) :
    (busReply (.read a 1#8) s = none ∧ memReadByte a k s = raiseFault .transport (takeReply s)) ∨
    (∃ v, busReply (.read a 1#8) s = some [v] ∧
      memReadByte a k s = k v (emit (.regRead a 1#8 [v]) (takeReply s))) := by
  rcases memRead_cases a 1#8 (fun data => k (byteAt data 0)) s with ⟨h, _⟩ | h | ⟨data, hr, _, _, hk⟩
  · rw [burstInBounds_one] at h; cases h
  · exact .inl h
  · refine .inr ⟨byteAt data 0, ?_, ?_⟩
    · rw [← busReply_byte_eq hr]; exact hr
    · rw [← busReply_byte_eq hr]; exact hk

/-- Everything `MemWrite` can do. -/
theorem memWrite_cases (a v : Byte) (k : Byte → State → State) (s : State) :
    (busReply (.write a v) s = none ∧ memWrite a v k s = raiseFault .transport (takeReply s)) ∨
    (∃ rx, busReply (.write a v) s = some [rx] ∧
      memWrite a v k s = k rx (emit (.regWrite a v rx) (takeReply s))) := by
  unfold memWrite
  cases hr : busReply (.write a v) s with
  | none => exact .inl ⟨rfl, rfl⟩
  | some data => exact .inr ⟨byteAt data 0, by rw [← busReply_write_eq hr], rfl⟩

/-! ### The same as rules for a property of the result -/

/-- To show `Q` of a one-byte read, show it of the fault and of what follows each answer. -/
theorem memReadByte_rule {Q : State → Prop} {a : Byte} {k : Byte → State → State} {s : State}
    (hf : Q (raiseFault .transport (takeReply s)))
    (hk : ∀ v, Q (k v (emit (.regRead a 1#8 [v]) (takeReply s)))) : Q (memReadByte a k s) := by
  rcases memReadByte_cases a k s with ⟨_, h⟩ | ⟨v, _, h⟩
  · rw [h]; exact hf
  · rw [h]; exact hk v

theorem memRead_rule {Q : State → Prop} {a n : Byte} {k : List Byte → State → State} {s : State}
    (hr : Q (refuse .fieldRange s)) (hf : Q (raiseFault .transport (takeReply s)))
    (hk : ∀ data, burstInBounds a n = true → data.length = n.toNat →
      Q (k data (emit (.regRead a n data) (takeReply s)))) : Q (memRead a n k s) := by
  rcases memRead_cases a n k s with ⟨_, h⟩ | ⟨_, h⟩ | ⟨data, _, hb, hl, h⟩
  · rw [h]; exact hr
  · rw [h]; exact hf
  · rw [h]; exact hk data hb hl

theorem memWrite_rule {Q : State → Prop} {a v : Byte} {k : Byte → State → State} {s : State}
    (hf : Q (raiseFault .transport (takeReply s)))
    (hk : ∀ rx, Q (k rx (emit (.regWrite a v rx) (takeReply s)))) : Q (memWrite a v k s) := by
  rcases memWrite_cases a v k s with ⟨_, h⟩ | ⟨rx, _, h⟩
  · rw [h]; exact hf
  · rw [h]; exact hk rx

/-- `Q` before an access gives `R` after a failed one and `Q` after an answered one. -/
structure BusClosed (Q R : State → Prop) : Prop where
  fault : ∀ s, Q s → R (raiseFault .transport (takeReply s))
  read : ∀ s a n data, burstInBounds a n = true → data.length = n.toNat →
    Q s → Q (emit (.regRead a n data) (takeReply s))
  write : ∀ s a v rx, Q s → Q (emit (.regWrite a v rx) (takeReply s))

theorem BusClosed.memReadByte {Q R : State → Prop} (hQ : BusClosed Q R)
    {a : Byte} {k : Byte → State → State} (hk : ∀ v s, Q s → R (k v s)) (s : State) (h : Q s) :
    R (memReadByte a k s) :=
  memReadByte_rule (hQ.fault s h) fun v => hk v _ (hQ.read s a 1#8 [v] (burstInBounds_one a) rfl h)

theorem BusClosed.memWrite {Q R : State → Prop} (hQ : BusClosed Q R)
    {a v : Byte} {k : Byte → State → State} (hk : ∀ rx s, Q s → R (k rx s)) (s : State) (h : Q s) :
    R (memWrite a v k s) :=
  memWrite_rule (hQ.fault s h) fun rx => hk rx _ (hQ.write s a v rx h)

theorem BusClosed.rmwClr {Q R : State → Prop} (hQ : BusClosed Q R)
    {a m : Byte} {k : State → State} (hk : ∀ s, Q s → R (k s)) (s : State) (h : Q s) : R (rmwClr a m k s) :=
  hQ.memReadByte (fun _ s h => hQ.memWrite (fun _ s h => hk s h) s h) s h

theorem BusClosed.rmwSet {Q R : State → Prop} (hQ : BusClosed Q R)
    {a m : Byte} {k : State → State} (hk : ∀ s, Q s → R (k s)) (s : State) (h : Q s) : R (rmwSet a m k s) :=
  hQ.memReadByte (fun _ s h => hQ.memWrite (fun _ s h => hk s h) s h) s h

theorem BusClosed.clearReason {Q R : State → Prop} (hQ : BusClosed Q R)
    {r : Reason} {k : State → State} (hk : ∀ s, Q s → R (k s)) (s : State) (h : Q s) :
    R (clearReason r k s) := by
  unfold Machine.clearReason
  split
  · exact hQ.rmwClr hk s h
  · exact hQ.rmwSet hk s h

theorem BusClosed.reenableRx {Q R : State → Prop} (hQ : BusClosed Q R) (hR : ∀ s, Q s → R s)
    (s : State) (h : Q s) : R (reenableRx s) := by
  unfold Machine.reenableRx
  split
  · exact hQ.rmwSet hR s h
  · exact hQ.rmwClr hR s h

theorem BusClosed.lockEval {Q R : State → Prop} (hQ : BusClosed Q R)
    {k : Bool → State → State} (hk : ∀ b s, Q s → R (k b s)) (s : State) (h : Q s) : R (lockEval k s) :=
  hQ.memReadByte (fun _ s h => hQ.memReadByte (fun _ s h => hk _ s h) s h) s h

theorem BusClosed.writeTable {Q R : State → Prop} (hQ : BusClosed Q R)
    {k : State → State} (hk : ∀ s, Q s → R (k s)) :
    ∀ (table : List (Byte × Byte)) (s : State), Q s → R (writeTable table k s)
  | [], s, h => hk s h
  | (_, _) :: more, s, h => hQ.memWrite (fun _ s h => hQ.writeTable hk more s h) s h

/-! ### Playing a sequence of events -/

@[simp] theorem played_nil (s : State) : played [] s = s := rfl

@[simp] theorem played_cons (e : Event) (es : List Event) (s : State) :
    played (e :: es) s = played es (follow e s) := rfl

theorem played_append (es fs : List Event) (s : State) : played (es ++ fs) s = played fs (played es s) := by
  induction es generalizing s with
  | nil => rfl
  | cons e es ih => exact ih (follow e s)

theorem chipPlays_append (es fs : List Event) (s : State) :
    chipPlays (es ++ fs) s = (chipPlays es s && chipPlays fs (played es s)) := by
  induction es generalizing s with
  | nil => simp [chipPlays]
  | cons e es ih => simp [chipPlays, ih, Bool.and_assoc]

@[simp] theorem follow_cfg (e : Event) (s : State) : (follow e s).cfg = s.cfg := by
  unfold follow; split <;> rfl

/-- One event changes the block by its trace only. -/
theorem follow_blk (e : Event) (s : State) :
    (follow e s).blk = { s.blk with trace := s.blk.trace ++ [e] } := by
  unfold follow; split <;> rfl

@[simp] theorem played_cfg (es : List Event) (s : State) : (played es s).cfg = s.cfg := by
  induction es generalizing s with
  | nil => rfl
  | cons e es ih => rw [played_cons, ih, follow_cfg]

/-- A sequence of events changes the block by its trace only. -/
theorem played_blk (es : List Event) (s : State) :
    (played es s).blk = { s.blk with trace := s.blk.trace ++ es } := by
  induction es generalizing s with
  | nil => simp
  | cons e es ih => rw [played_cons, ih, follow_blk]; simp

/-- An update that leaves the trace alone can be made before an event or after it. -/
theorem follow_onBlock {f : Block → Block} (hf : ∀ b tr, f { b with trace := tr } = { f b with trace := tr })
    (e : Event) (s : State) : follow e (onBlock f s) = onBlock f (follow e s) := by
  have ht : (f s.blk).trace = s.blk.trace := by
    have h := congrArg Block.trace (hf s.blk s.blk.trace)
    exact h
  have hm : emit e (onBlock f s) = onBlock f (emit e s) := by
    show ({ s with blk := { f s.blk with trace := (f s.blk).trace ++ [e] } } : State) = _
    rw [ht, ← hf]
    rfl
  unfold follow
  split
  · exact congrArg (fun t => takeReply t) hm
  · exact hm

theorem played_onBlock {f : Block → Block} (hf : ∀ b tr, f { b with trace := tr } = { f b with trace := tr })
    (es : List Event) (s : State) : played es (onBlock f s) = onBlock f (played es s) := by
  induction es generalizing s with
  | nil => rfl
  | cons e es ih => rw [played_cons, follow_onBlock hf, ih, played_cons]

/-- The chip answers the same after an update that leaves the trace alone. -/
theorem chipPlays_onBlock {f : Block → Block} (hf : ∀ b tr, f { b with trace := tr } = { f b with trace := tr })
    (es : List Event) (s : State) : chipPlays es (onBlock f s) = chipPlays es s := by
  induction es generalizing s with
  | nil => rfl
  | cons e es ih =>
    have ht : (f s.blk).trace = s.blk.trace := by
      have h := congrArg Block.trace (hf s.blk s.blk.trace)
      exact h
    have hb : ∀ acc, busReply acc (onBlock f s) = busReply acc s := fun acc => busReply_congr acc rfl rfl ht
    simp only [chipPlays, follow_onBlock hf, ih, hb]

/-- A read that the chip plays goes on with the answer. -/
theorem memRead_plays {a n : Byte} {data : List Byte} {es : List Event} {s : State}
    (k : List Byte → State → State) (hb : burstInBounds a n = true)
    (h : chipPlays (.regRead a n data :: es) s = true) :
    memRead a n k s = k data (follow (.regRead a n data) s) ∧
    chipPlays es (follow (.regRead a n data) s) = true := by
  simp only [chipPlays, recordedAccess, Bool.and_eq_true, beq_iff_eq] at h
  refine ⟨?_, h.2⟩
  simp [memRead, hb, h.1, follow, recordedAccess]

theorem memReadByte_plays {a v : Byte} {es : List Event} {s : State} (k : Byte → State → State)
    (h : chipPlays (.regRead a 1#8 [v] :: es) s = true) :
    memReadByte a k s = k v (follow (.regRead a 1#8 [v]) s) ∧
    chipPlays es (follow (.regRead a 1#8 [v]) s) = true :=
  memRead_plays (fun data => k (byteAt data 0)) (burstInBounds_one a) h

theorem memWrite_plays {a v rx : Byte} {es : List Event} {s : State} (k : Byte → State → State)
    (h : chipPlays (.regWrite a v rx :: es) s = true) :
    memWrite a v k s = k rx (follow (.regWrite a v rx) s) ∧
    chipPlays es (follow (.regWrite a v rx) s) = true := by
  simp only [chipPlays, recordedAccess, Bool.and_eq_true, beq_iff_eq] at h
  refine ⟨?_, h.2⟩
  simp [memWrite, h.1, follow, recordedAccess, byteAt]

/-- An event that records no access is only emitted. -/
theorem chipPlays_silent {e : Event} {es : List Event} {s : State} (he : recordedAccess e = none)
    (h : chipPlays (e :: es) s = true) : emit e s = follow e s ∧ chipPlays es (follow e s) = true := by
  simp only [chipPlays, he, Bool.true_and] at h
  exact ⟨by simp [follow, he], h⟩

/-- A read-modify-write that the chip plays: `f` is the value it writes back. -/
theorem rmwClr_plays {a m v rx : Byte} {es : List Event} {s : State} (k : State → State)
    (h : chipPlays (.regRead a 1#8 [v] :: .regWrite a (clearBits v m) rx :: es) s = true) :
    rmwClr a m k s = k (played [.regRead a 1#8 [v], .regWrite a (clearBits v m) rx] s) ∧
    chipPlays es (played [.regRead a 1#8 [v], .regWrite a (clearBits v m) rx] s) = true := by
  obtain ⟨h1, h⟩ := memReadByte_plays (fun x => memWrite a (clearBits x m) fun _ => k) h
  obtain ⟨h2, h⟩ := memWrite_plays (fun _ => k) h
  exact ⟨by rw [rmwClr, h1, h2]; rfl, h⟩

theorem rmwSet_plays {a m v rx : Byte} {es : List Event} {s : State} (k : State → State)
    (h : chipPlays (.regRead a 1#8 [v] :: .regWrite a (setBits v m) rx :: es) s = true) :
    rmwSet a m k s = k (played [.regRead a 1#8 [v], .regWrite a (setBits v m) rx] s) ∧
    chipPlays es (played [.regRead a 1#8 [v], .regWrite a (setBits v m) rx] s) = true := by
  obtain ⟨h1, h⟩ := memReadByte_plays (fun x => memWrite a (setBits x m) fun _ => k) h
  obtain ⟨h2, h⟩ := memWrite_plays (fun _ => k) h
  exact ⟨by rw [rmwSet, h1, h2]; rfl, h⟩

/-- A clearing of a reason that the chip plays (42_interrupt_dispatch.md R139). -/
theorem clearReason_plays {P : Params} {r : Reason} {v rx : Byte} {es : List Event} {s : State}
    (k : State → State) (hP : s.cfg = P) (h : chipPlays (clearEvents P r v rx ++ es) s = true) :
    clearReason r k s = k (played (clearEvents P r v rx) s) ∧
    chipPlays es (played (clearEvents P r v rx) s) = true := by
  subst hP
  unfold clearReason
  unfold clearEvents clearedReason at *
  split <;> simp only [*, List.cons_append, List.nil_append] at h ⊢
  · exact rmwClr_plays k h
  · exact rmwSet_plays k h

/-- A re-enabling of the receive buffer that the chip plays (R133). -/
theorem reenableRx_plays {P : Params} {v rx : Byte} {es : List Event} {s : State} (hP : s.cfg = P)
    (h : chipPlays (.regRead P.regRbe 1#8 [v] :: .regWrite P.regRbe (reenabled P v) rx :: es) s = true) :
    reenableRx s = played [.regRead P.regRbe 1#8 [v], .regWrite P.regRbe (reenabled P v) rx] s ∧
    chipPlays es (played [.regRead P.regRbe 1#8 [v], .regWrite P.regRbe (reenabled P v) rx] s) = true := by
  subst hP
  unfold reenableRx
  unfold reenabled at *
  split <;> simp only [*] at h ⊢
  · exact rmwSet_plays id h
  · exact rmwClr_plays id h

/-- A LockEval that the chip plays (44_lock_monitor.md R204). -/
theorem lockEval_plays {P : Params} {p q : Byte} {es : List Event} {s : State}
    (k : Bool → State → State) (hP : s.cfg = P) (h : chipPlays (evalEvents P p q ++ es) s = true) :
    lockEval k s = k (bothLocked P p q) (played (evalEvents P p q) s) ∧
    chipPlays es (played (evalEvents P p q) s) = true := by
  subst hP
  obtain ⟨h1, h⟩ := memReadByte_plays
    (fun p => memReadByte s.cfg.regFreq fun q => k (bothLocked s.cfg p q)) h
  obtain ⟨h2, h⟩ := memReadByte_plays (fun q => k (bothLocked s.cfg p q)) h
  exact ⟨by rw [lockEval, h1, h2]; rfl, h⟩

/-- A relock that the chip plays (44_lock_monitor.md R205). -/
theorem relock_plays {P : Params} {v rx : Byte} {s : State} (hP : s.cfg = P)
    (h : chipPlays (.locked :: clearEvents P .err v rx) s = true) :
    relock s = onBlock (fun b => { b with transceiverLocked := true, lockPollActive := false })
      (played (.locked :: clearEvents P .err v rx) s) := by
  obtain ⟨h1, h⟩ := chipPlays_silent rfl h
  rw [← List.append_nil (clearEvents P .err v rx)] at h
  obtain ⟨h2, -⟩ := clearReason_plays (fun s => disarm .lockPoll (setLocked true s)) (by simp [hP]) h
  rw [relock, h1, h2]
  rfl

/-- Configuration writes that the chip plays (70_reset_and_hazards.md R273). -/
theorem writeTable_plays (k : State → State) {es : List Event} {table : List (Byte × Byte)} {rxs : List Byte}
    {s : State} (hl : rxs.length = table.length) (h : chipPlays (tableEvents table rxs ++ es) s = true) :
    writeTable table k s = k (played (tableEvents table rxs) s) ∧
    chipPlays es (played (tableEvents table rxs) s) = true := by
  induction table generalizing rxs s with
  | nil =>
    obtain rfl : rxs = [] := by simpa using hl
    exact ⟨rfl, h⟩
  | cons entry more ih =>
    obtain ⟨a, v⟩ := entry
    cases rxs with
    | nil => cases hl
    | cons rx rxs =>
      simp only [tableEvents, List.cons_append] at h
      obtain ⟨h1, h⟩ := memWrite_plays (fun _ => writeTable more k) h
      obtain ⟨h2, h⟩ := ih (by simpa using hl) h
      refine ⟨?_, h⟩
      rw [writeTable, h1, h2, tableEvents, played_cons]

/-! ### Instructions -/

/-- Outside Fatal an instruction answers a next state. -/
theorem unlessFatal_live {f : State → State} {s : State} (h : s.blk.bringup ≠ .fatal) :
    unlessFatal f s = .next (f s) := if_neg h

/-- An instruction answers a next state only outside Fatal, and which one. -/
theorem unlessFatal_next {f : State → State} {s t : State} (h : unlessFatal f s = .next t) :
    s.blk.bringup ≠ .fatal ∧ t = f s := by
  unfold unlessFatal at h
  split at h
  · cases h
  · cases h; exact ⟨‹_›, rfl⟩

/-- A serviced interrupt is `Dispatch()` (42_interrupt_dispatch.md R130). -/
theorem exec_irq_serving {s : State} (h : serving s = true) : exec .irq s = .next (dispatch s) := by
  simp only [serving, Bool.and_eq_true, bne_iff_ne, beq_iff_eq] at h
  simp only [exec, execIrq, unlessFatal_live h.1.2, interrupt, if_neg h.1.1, h.2]

/-- A watched interrupt is `FirstInterrupt()` (R130). -/
theorem exec_irq_watching {s : State} (h : watching s = true) : exec .irq s = .next (firstInterrupt s) := by
  simp only [watching, Bool.and_eq_true, bne_iff_ne, beq_iff_eq] at h
  simp only [exec, execIrq, unlessFatal_live h.1.2, interrupt, if_neg h.1.1, h.2]

/-- A serviced interrupt reads the status byte once and takes the branch it selects (R131). -/
theorem exec_irq_plays {P : Params} {s : State} {x : Byte} {es : List Event} (hs : serving s = true)
    (hP : s.cfg = P) (h : chipPlays (.regRead P.regStatus 1#8 [x] :: es) s = true) :
    exec .irq s = .next (branch (reasonOf P x) (follow (.regRead P.regStatus 1#8 [x]) s)) ∧
    chipPlays es (follow (.regRead P.regStatus 1#8 [x]) s) = true := by
  subst hP
  obtain ⟨h1, h⟩ := memReadByte_plays (fun x s => branch (reasonOf s.cfg x) s) h
  exact ⟨by rw [exec_irq_serving hs, dispatch, h1]; simp, h⟩

end Sys2Proof.Machine
end

