-- ==== Sys2Proof/Laws/Decode.lean ====
section
/-! SUPPORT. The small lemmas of the encoding's fields: packing and unpacking, the opcode map, the request kinds. -/

namespace Sys2Proof

@[simp] theorem joinBytes_hi_lo (w : Word16) : joinBytes (hiByte w) (loByte w) = w := by
  simp only [joinBytes, hiByte, loByte]
  apply BitVec.eq_of_getLsbD_eq
  intro i hi
  simp only [BitVec.getLsbD_append, BitVec.getLsbD_extractLsb']
  by_cases h : i < 8
  · simp [h]
  · simp [h, show i - 8 < 8 by omega, show 8 + (i - 8) = i by omega]

@[simp] theorem hiByte_joinBytes (hi lo : Byte) : hiByte (joinBytes hi lo) = hi := by
  apply BitVec.eq_of_getLsbD_eq
  intro i h
  simp only [hiByte, joinBytes, BitVec.getLsbD_extractLsb', BitVec.getLsbD_append]
  simp [h, show ¬ 8 + i < 8 by omega]

@[simp] theorem loByte_joinBytes (hi lo : Byte) : loByte (joinBytes hi lo) = lo := by
  apply BitVec.eq_of_getLsbD_eq
  intro i h
  simp only [loByte, joinBytes, BitVec.getLsbD_extractLsb', BitVec.getLsbD_append]
  simp [h]

theorem joinBytes_toNat (hi lo : Byte) : (joinBytes hi lo).toNat = 256 * hi.toNat + lo.toNat := by
  have := lo.isLt
  simp only [joinBytes, BitVec.toNat_append]
  rw [← Nat.shiftLeft_add_eq_or_of_lt this, Nat.shiftLeft_eq]
  omega

@[simp] theorem wordFn_packFnOp (fn : FunctionId) (op : Nibble) : wordFn (packFnOp fn op) = fn := by
  apply BitVec.eq_of_getLsbD_eq
  intro i h
  simp only [wordFn, packFnOp, BitVec.getLsbD_or, BitVec.getLsbD_shiftLeft, BitVec.getLsbD_setWidth,
    BitVec.getLsbD_extractLsb']
  simp [h, show ¬ 4 + i < 4 by omega, show 4 + i < 16 by omega, show i < 16 by omega]

@[simp] theorem wordOp_packFnOp (fn : FunctionId) (op : Nibble) : wordOp (packFnOp fn op) = op := by
  apply BitVec.eq_of_getLsbD_eq
  intro i h
  simp only [wordOp, packFnOp, BitVec.getLsbD_or, BitVec.getLsbD_shiftLeft, BitVec.getLsbD_setWidth,
    BitVec.getLsbD_extractLsb']
  simp [h, show i < 16 by omega]

@[simp] theorem packFnOp_wordFn_wordOp (w : Word16) : packFnOp (wordFn w) (wordOp w) = w := by
  apply BitVec.eq_of_getLsbD_eq
  intro i h
  simp only [packFnOp, wordFn, wordOp, BitVec.getLsbD_or, BitVec.getLsbD_shiftLeft, BitVec.getLsbD_setWidth,
    BitVec.getLsbD_extractLsb']
  by_cases h4 : i < 4
  · simp [h4, h]
  · simp [h4, h, show i - 4 < 12 by omega, show i - 4 < 16 by omega, show 4 + (i - 4) = i by omega]

theorem packFnOp_toNat (fn : FunctionId) (op : Nibble) : (packFnOp fn op).toNat = 16 * fn.toNat + op.toNat := by
  have h1 := fn.isLt
  have h2 := op.isLt
  simp only [packFnOp, BitVec.toNat_or, BitVec.toNat_shiftLeft, BitVec.toNat_setWidth]
  rw [Nat.mod_eq_of_lt (show fn.toNat < 2 ^ 16 by omega), Nat.mod_eq_of_lt (show op.toNat < 2 ^ 16 by omega),
    Nat.mod_eq_of_lt (by rw [Nat.shiftLeft_eq]; omega), ← Nat.shiftLeft_add_eq_or_of_lt h2, Nat.shiftLeft_eq]
  omega

@[simp] theorem opcodeOf_opcodeByte (o : Opcode) : opcodeOf (opcodeByte o) = some o := by
  cases o <;> rfl

/-- The opcode map names each byte's row. -/
theorem opcodeByte_of_opcodeOf {b : Byte} {o : Opcode} (h : opcodeOf b = some o) : opcodeByte o = b := by
  have := List.find?_some h
  simpa using this

@[simp] theorem kindOf_kindByte (k : ReqKind) : kindOf (kindByte k) = some k := by
  cases k <;> rfl

theorem kindByte_of_kindOf {b : Byte} {k : ReqKind} (h : kindOf b = some k) : kindByte k = b := by
  unfold kindOf at h
  split at h
  · cases h; simp [kindByte, *]
  · split at h
    · cases h; simp [kindByte, *]
    · split at h
      · cases h; simp [kindByte, *]
      · cases h

/-- The range check answers the stimulus or the range refusal. -/
theorem checkRange_eq_ok {i j : Instr} {rest rest' : List Byte} :
    checkRange i rest = .ok (j, rest') ↔ i.wellFormed = true ∧ j = i ∧ rest' = rest := by
  unfold checkRange
  split
  · next h => simp only [Except.ok.injEq, Prod.mk.injEq, h, true_and, eq_comm]
  · next h => simp [h]

end Sys2Proof
end

