-- ==== Sys2Proof/Laws/Codec.lean ====
section
/-! SUPPORT. The small lemmas of the frame codec: lengths, and what a chunk leaves. -/

namespace Sys2Proof.Machine

/-- Every slot has 21 bytes (30_encoding.md R92). -/
theorem buildFrame_length (P : Params) (h : Header) (tid : Nibble) {d : List Byte} (hd : d.length ≤ 12) :
    (buildFrame P h tid d).length = 21 := by
  simp [buildFrame, slotData]
  omega

/-- A 20-byte buffer decodes to a payload of 11 or 12 bytes (R96). -/
theorem decodeFrame_payload_length (P : Params) {b : List Byte} (hb : b.length = 20) :
    (decodeFrame P b).payload.length = if holds P.isExtended (byteAt b 0) then 11 else 12 := by
  simp only [decodeFrame]
  split <;> simp [hb]

/-- A chunk carries the sequence prefix and at most 11 bytes (43_frame_codec.md R167). -/
theorem nextChunk_data_length (ses : Session) : (nextChunk ses).data.length ≤ 12 := by
  simp [nextChunk, chunkBytes]

theorem nextChunk_rest (ses : Session) : (nextChunk ses).rest = ses.remaining.drop 11 := rfl

/-- The chunk that empties the payload is terminal, and the session ends with it (R168, R170). -/
theorem sessionAfter_terminal {ses : Session} (h : ses.remaining.length ≤ 11) : sessionAfter ses = none := by
  simp [sessionAfter, nextChunk, chunkBytes, List.drop_eq_nil_of_le h]

/-- Every other chunk leaves the rest of the payload and the next counter value (R169). -/
theorem sessionAfter_interior {ses : Session} (h : 11 < ses.remaining.length) :
    sessionAfter ses = some { hdr := ses.hdr, remaining := ses.remaining.drop 11, seq := ses.seq + 1 } := by
  have : ses.remaining.drop chunkBytes ≠ [] := by simp [chunkBytes]; omega
  simp [sessionAfter, nextChunk, chunkBytes] at this ⊢
  simp [this]

/-- A Grant clears the label, every other answer leaves it (45_request_tracking.md R222). -/
theorem recordDealloc_eq (a : DeallocAnswer) (s : State) :
    recordDealloc a s =
      onBlock (fun b => { b with connectionLabel := if a = .grant then none else b.connectionLabel }) s := by
  unfold recordDealloc
  split <;> rfl

/-- Resolving a request leaves the bring-up state (R222). -/
theorem resolveWith_bringup (k : ReqKind) (mb : List Byte) (s : State) :
    (resolveWith k mb (setAwait k false s)).blk.bringup = s.blk.bringup := by
  cases k
  · rfl
  · rfl
  · simp only [resolveWith, recordDealloc_eq]
    rfl

/-- A session never holds an empty rest (10_state.md R48(g)). -/
theorem sessionAfter_nonempty {ses next : Session} (h : sessionAfter ses = some next) : next.remaining ≠ [] := by
  by_cases hl : ses.remaining.length ≤ 11
  · rw [sessionAfter_terminal hl] at h; cases h
  · rw [sessionAfter_interior (by omega)] at h
    cases h
    simp
    omega

end Sys2Proof.Machine
end

