-- ==== Sys2Proof/Laws/Failure.lean ====
section
/-! SUPPORT. Where a step ends when the chip fails an access of it (41_register_transport.md R114): the accesses, and the
operations built from them, event by event. -/

namespace Sys2Proof.Machine

theorem stopsAtFailure_nil (u : State) (o : Outcome) : StopsAtFailure [] u o := by
  intro pre post e acc data h
  simp at h

/-- The first event fails, or it is played and a later one fails. -/
theorem stopsAtFailure_cons {e : Event} {es : List Event} {u : State} {o : Outcome}
    (hf : ∀ acc data, recordedAccess e = some (acc, data) → busReply acc u = none →
      o = .next (raiseFault .transport (takeReply u)))
    (hk : chipPlays [e] u = true → StopsAtFailure es (follow e u) o) : StopsAtFailure (e :: es) u o := by
  intro pre post e' acc data h ha hp hb
  cases pre with
  | nil =>
    obtain ⟨rfl, -⟩ := List.cons.inj h
    exact hf acc data ha hb
  | cons x pre =>
    rw [List.cons_append, List.cons.injEq] at h
    obtain ⟨rfl, h⟩ := h
    rw [← List.singleton_append, chipPlays_append, Bool.and_eq_true] at hp
    exact hk hp.1 pre post e' acc data h ha hp.2 hb

/-- What stops at each event of a sequence stops at each event of its beginning. -/
theorem StopsAtFailure.init {es fs : List Event} {u : State} {o : Outcome} (h : StopsAtFailure (es ++ fs) u o) :
    StopsAtFailure es u o := by
  rintro pre post e acc data rfl
  exact h pre (post ++ fs) e acc data (by simp)

/-- An event that records no access cannot fail. -/
theorem emit_stops {e : Event} {es : List Event} {u : State} {o : Outcome} (he : recordedAccess e = none)
    (h : StopsAtFailure es (emit e u) o) : StopsAtFailure (e :: es) u o :=
  stopsAtFailure_cons (by simp [he]) fun _ => by simpa [follow, he] using h

theorem memRead_stops {a n : Byte} {data : List Byte} {es : List Event} {u : State} {k : List Byte → State → State}
    (hb : burstInBounds a n = true)
    (h : StopsAtFailure es (follow (.regRead a n data) u) (.next (k data (follow (.regRead a n data) u)))) :
    StopsAtFailure (.regRead a n data :: es) u (.next (memRead a n k u)) := by
  refine stopsAtFailure_cons ?_ fun hp => ?_
  · rintro acc d hd hr
    obtain ⟨rfl, -⟩ := Prod.mk.inj (Option.some.inj hd)
    simp [memRead, hb, hr]
  · rw [(memRead_plays k hb hp).1]
    exact h

theorem memReadByte_stops {a v : Byte} {es : List Event} {u : State} {k : Byte → State → State}
    (h : StopsAtFailure es (follow (.regRead a 1#8 [v]) u) (.next (k v (follow (.regRead a 1#8 [v]) u)))) :
    StopsAtFailure (.regRead a 1#8 [v] :: es) u (.next (memReadByte a k u)) :=
  memRead_stops (burstInBounds_one a) h

theorem memWrite_stops {a v rx : Byte} {es : List Event} {u : State} {k : Byte → State → State}
    (h : StopsAtFailure es (follow (.regWrite a v rx) u) (.next (k rx (follow (.regWrite a v rx) u)))) :
    StopsAtFailure (.regWrite a v rx :: es) u (.next (memWrite a v k u)) := by
  refine stopsAtFailure_cons ?_ fun hp => ?_
  · rintro acc d hd hr
    obtain ⟨rfl, -⟩ := Prod.mk.inj (Option.some.inj hd)
    simp [memWrite, hr]
  · rw [(memWrite_plays k hp).1]
    exact h

/-- A clearing of a reason, read and write (42_interrupt_dispatch.md R139). -/
theorem clearReason_stops {P : Params} {r : Reason} {v rx : Byte} {es : List Event} {u : State} {k : State → State}
    (hP : u.cfg = P)
    (h : StopsAtFailure es (played (clearEvents P r v rx) u) (.next (k (played (clearEvents P r v rx) u)))) :
    StopsAtFailure (clearEvents P r v rx ++ es) u (.next (clearReason r k u)) := by
  subst hP
  unfold clearReason
  unfold clearEvents clearedReason at *
  split <;> simp only [*, List.cons_append, List.nil_append] at h ⊢ <;>
    exact memReadByte_stops (memWrite_stops h)

/-- A re-enabling of the receive buffer (R133). -/
theorem reenableRx_stops {P : Params} {v rx : Byte} {u : State} (hP : u.cfg = P) :
    StopsAtFailure [.regRead P.regRbe 1#8 [v], .regWrite P.regRbe (reenabled P v) rx] u (.next (reenableRx u)) := by
  subst hP
  unfold reenableRx
  unfold reenabled
  cases u.cfg.rbePolarity <;> exact memReadByte_stops (memWrite_stops (stopsAtFailure_nil _ _))

/-- A LockEval (44_lock_monitor.md R204). -/
theorem lockEval_stops {P : Params} {p q : Byte} {es : List Event} {u : State} {k : Bool → State → State}
    (hP : u.cfg = P)
    (h : StopsAtFailure es (played (evalEvents P p q) u)
      (.next (k (bothLocked P p q) (played (evalEvents P p q) u)))) :
    StopsAtFailure (evalEvents P p q ++ es) u (.next (lockEval k u)) := by
  subst hP
  exact memReadByte_stops (memReadByte_stops h)

/-- A relock (R205). -/
theorem relock_stops {P : Params} {v rx : Byte} {u : State} (hP : u.cfg = P) :
    StopsAtFailure (.locked :: clearEvents P .err v rx) u (.next (relock u)) := by
  refine emit_stops rfl ?_
  rw [← List.append_nil (clearEvents P .err v rx)]
  exact clearReason_stops hP (stopsAtFailure_nil _ _)

/-- A lock check that relocks where it finds the lock (R206, R207). -/
theorem lockCheck_stops {P : Params} {p q v rx : Byte} {u : State} {k : Bool → State → State} (hP : u.cfg = P)
    (hk : ∀ s, k true s = relock s) : StopsAtFailure (checkEvents P p q v rx) u (.next (lockEval k u)) := by
  refine lockEval_stops hP ?_
  cases bothLocked P p q with
  | true =>
    rw [hk]
    exact relock_stops (by simpa using hP)
  | false => exact stopsAtFailure_nil _ _

/-- Configuration writes (70_reset_and_hazards.md R273). -/
theorem writeTable_stops {k : State → State} {es : List Event} {table : List (Byte × Byte)} {rxs : List Byte}
    {u : State} (hl : rxs.length = table.length)
    (h : StopsAtFailure es (played (tableEvents table rxs) u) (.next (k (played (tableEvents table rxs) u)))) :
    StopsAtFailure (tableEvents table rxs ++ es) u (.next (writeTable table k u)) := by
  induction table generalizing rxs u with
  | nil =>
    obtain rfl : rxs = [] := by simpa using hl
    exact h
  | cons entry more ih =>
    obtain ⟨a, v⟩ := entry
    cases rxs with
    | nil => cases hl
    | cons rx rxs => exact memWrite_stops (ih (by simpa using hl) h)

end Sys2Proof.Machine
end

