-- ==== Sys2Proof/Laws/Kept.lean ====
section
/-! SUPPORT. What a step can do, said once: a property that every effect of the block keeps is kept by an interrupt, by
every stimulus and by a step. An invariant or a frame is proved from these by its clauses about the effects alone. -/

namespace Sys2Proof.Machine

/-- The property holds and the block is not in Fatal: what holds inside a step until a fault ends it. -/
def Live (Q : State → Prop) (s : State) : Prop := Q s ∧ s.blk.bringup ≠ .fatal

/-- An event that every rule but those of the lock monitor, RESET and an allocation result may emit. -/
def plainEvent : Event → Bool
  | .locked => false
  | .unlocked => false
  | .resetLine _ => false
  | .allocResult _ => false
  | e => eventWf e

/-- `Q` is kept by the effects an interrupt and a register stimulus can have, the lock poll, the relock and the first
interrupt's mode changes apart. -/
structure InterruptKeeps (Q : State → Prop) : Prop where
  fault : ∀ s c, Q s → Q (raiseFault c s)
  refused : ∀ s c, Q s → Q (refuse c s)
  reply : ∀ s, Q s → Q (takeReply s)
  event : ∀ s e, plainEvent e = true → Q s → Q (emit e s)
  ncDrawn : ∀ s, Q s → Q (takeNcDraw s)
  gateDrawn : ∀ s, Q s → Q (takeGateDraw s)
  /-- a session ends, or goes on with something left -/
  session : ∀ s x, (∀ ses : Session, x = some ses → ses.remaining ≠ [] ∧ s.blk.mpSession ≠ none) →
    Q s → Q (setSession x s)
  positions : ∀ s p mx, Q s → Q (onBlock (fun b => { b with nodePosition := some p, maxPosition := some mx }) s)
  lost : ∀ s, s.blk.transceiverLocked = true → Live Q s → Q (lockLoss s)
  resolved : ∀ s k mb, pendingRequest s.blk = some k → mb.length = 20 → Live Q s →
    Q (resolveWith k mb (setAwait k false s))

namespace InterruptKeeps

variable {Q : State → Prop}

theorem bus (h : InterruptKeeps Q) : BusClosed (Live Q) Q where
  fault s hs := h.fault _ _ (h.reply s hs.1)
  read s _ _ _ hb hl hs :=
    ⟨h.event (takeReply s) _ (by simp [plainEvent, eventWf, hb, hl]) (h.reply s hs.1), hs.2⟩
  write s _ _ _ hs := ⟨h.event (takeReply s) _ rfl (h.reply s hs.1), hs.2⟩

theorem live (h : InterruptKeeps Q) {s : State} {e : Event} (he : plainEvent e = true) (hs : Live Q s) :
    Live Q (emit e s) := ⟨h.event s e he hs.1, hs.2⟩

/-- A continuation keeps it (43_frame_codec.md R169, R171). -/
theorem mpContinue (h : InterruptKeeps Q) {s : State} (hs : Live Q s) : Live Q (mpContinue s) := by
  unfold Machine.mpContinue
  split
  · exact hs
  · next ses he =>
    have after : ∀ u, u.blk.mpSession = some ses → Live Q u → Live Q (setSession (sessionAfter ses) u) :=
      fun u hu h' => ⟨h.session u _ (fun _ hn => ⟨sessionAfter_nonempty hn, by simp [hu]⟩) h'.1, h'.2⟩
    split
    · have hArm : ∀ arm u, u.blk.mpSession = some ses → Live Q u → Live Q (gatedArm arm ses u) := by
        intro arm u hu h'
        cases arm
        · exact after _ hu (h.live rfl h')
        · exact h.live rfl h'
        · exact h.live rfl ⟨h.session u none (fun _ hn => nomatch hn) h'.1, h'.2⟩
      unfold mpGated
      split
      · exact hArm _ _ he hs
      · exact hArm _ _ he ⟨h.gateDrawn s hs.1, hs.2⟩
    · refine after _ he (h.live ?_ hs)
      simp only [plainEvent, eventWf, decide_eq_true_eq]
      exact buildFrame_length _ _ _ (nextChunk_data_length ses)

/-- The steady-state handler keeps it (42_interrupt_dispatch.md R131). -/
theorem dispatch (h : InterruptKeeps Q) {s : State} (hs : Live Q s) : Q (dispatch s) := by
  refine h.bus.memReadByte ?_ _ hs
  intro v s hs
  rcases reasonOf s.cfg v with _ | _ | _ | _ | _
  · exact h.event s _ rfl hs.1
  · show Q (rxBranch s)
    refine memRead_rule (Q := Q) (h.refused _ _ hs.1) (h.bus.fault _ hs) ?_
    intro data hb hl
    refine h.bus.clearReason (fun s hs => h.bus.reenableRx (fun _ h' => h'.1) s hs) _
      (h.live ?_ (h.bus.read _ _ _ _ hb hl hs))
    have hp := decodeFrame_payload_length s.cfg (b := data) (by simpa using hl)
    have hc : (emit (.regRead s.cfg.regRxBuf 20#8 data) (takeReply s)).cfg = s.cfg := rfl
    simp only [plainEvent, eventWf, hc, hp]
    split <;> rfl
  · show Q (lockFault s)
    refine h.bus.memReadByte ?_ _ hs
    intro f s hs
    split
    · next hc =>
      simp only [lockLossCondition, Bool.and_eq_true] at hc
      exact h.lost s hc.2 hs
    · exact h.bus.clearReason (fun _ h' => h'.1) _ hs
  · refine h.bus.clearReason ?_ _ hs
    intro s hs
    unfold resolvePending
    split
    · next k hk =>
      refine memRead_rule (Q := Q) (h.refused _ _ hs.1) (h.bus.fault _ hs) ?_
      intro data hb hl
      have hd : pendingRequest (emit (.regRead s.cfg.regMbox 20#8 data) (takeReply s)).blk = some k := hk
      have hr := h.resolved _ k data hd hl (h.bus.read _ _ _ _ hb hl hs)
      refine (h.mpContinue (h.live rfl ⟨hr, ?_⟩)).1
      rw [resolveWith_bringup]
      exact hs.2
    · exact (h.mpContinue (h.live rfl hs)).1
  · refine h.bus.clearReason ?_ _ hs
    have hRead : ∀ s, Live Q s → Q (readPositions s) := fun s hs =>
      h.bus.memReadByte (fun _ s hs =>
        h.bus.memReadByte (fun _ s hs => h.event _ _ rfl (h.positions s _ _ hs.1)) s hs) s hs
    intro s hs
    unfold ncPositions
    split
    · exact hs.1
    · exact hRead _ hs
    · split
      · exact hRead _ ⟨h.ncDrawn s hs.1, hs.2⟩
      · exact h.ncDrawn s hs.1

/-- The first interrupt keeps it (70_reset_and_hazards.md R272 to R274), from what its mode changes, a
relock and the poll do. -/
theorem firstInterrupt (h : InterruptKeeps Q) {s : State}
    (hConf : Q (onBlock (fun b => { b with irqArmed := .none, bringup := .configuring }) s))
    (hOper : ∀ u, Live Q u →
      Q (armRequest .dealloc (onBlock (fun b => { b with irqArmed := .steadyState, bringup := .operational }) u)))
    (hRelock : ∀ u, u.blk.transceiverLocked = s.blk.transceiverLocked → Live Q u → Q (relock u))
    (hPoll : ∀ u, u.blk.transceiverLocked = s.blk.transceiverLocked → Live Q u → Q (arm .lockPoll u)) :
    Q (firstInterrupt s) := by
  have hBus : BusClosed (fun u => Live Q u ∧ u.blk.transceiverLocked = s.blk.transceiverLocked) Q :=
    ⟨fun u hs => h.bus.fault u hs.1, fun u a n d hb hl hs => ⟨h.bus.read u a n d hb hl hs.1, hs.2⟩,
      fun u a v rx hs => ⟨h.bus.write u a v rx hs.1, hs.2⟩⟩
  refine hBus.writeTable ?_ _ _ ⟨⟨hConf, fun hn => nomatch hn⟩, rfl⟩
  intro u hs
  have ho : Live Q (emit (.allocPortReq .deallocAll broadcastLabel)
      (armRequest .dealloc (onBlock (fun b => { b with irqArmed := .steadyState, bringup := .operational }) u))) :=
    h.live rfl ⟨hOper u hs.1, fun hn => nomatch hn⟩
  unfold secondaryStep bringupLockCheck
  refine hBus.lockEval ?_ _ ⟨ho, hs.2⟩
  intro b u hs
  split
  · exact hRelock u hs.2 hs.1
  · split
    · exact hPoll u hs.2 hs.1
    · exact hs.1.1

end InterruptKeeps

/-- `Q` is kept by the effects of every other stimulus too. -/
structure StepKeeps (Q : State → Prop) : Prop extends InterruptKeeps Q where
  reset : ∀ s, Live Q s → Q (resetBlock s)
  settled : ∀ s, s.blk.settleArmed = true → Live Q s →
    Q (onBlock (fun b => { b with irqArmed := .oneShot, bringup := .awaitingFirstInterrupt })
      (emit (.resetLine .asserted) (onBlock (fun b => { b with resetLine := .asserted }) (disarm .settle s))))
  expired : ∀ s k, Live Q s → Q (setAwait k false (expireReq k s))
  armed : ∀ s k, Live Q s → Q (armRequest k s)
  started : ∀ s ses, ses.remaining ≠ [] → s.blk.transceiverLocked = true → Live Q s → Q (setSession (some ses) s)

/-- Everything a step can do: the next stimulus is executed, or the run ends with a decode refusal. -/
theorem step_cases {s t : State} (h : step s = .next t) :
    s.blk.bringup ≠ .fatal ∧ s.env.ended = none ∧
    ((∃ i rest, decode s.env.program = .ok (i, rest) ∧ exec i (present rest s) = .next t) ∨
      ∃ c, decode s.env.program = .error c ∧ t = endRun c s) := by
  unfold step stepWith at h
  split at h
  · cases h
  · next hf =>
    split at h
    · cases h
    · next he =>
      refine ⟨hf, by simpa using he, ?_⟩
      unfold runNext at h
      split at h
      · cases h
      · split at h
        · next i rest hd => exact .inl ⟨i, rest, hd, h⟩
        · next c hd => cases h; exact .inr ⟨c, hd, rfl⟩

/-- Every stimulus keeps it, from what a relock and the first interrupt do. -/
theorem StepKeeps.exec {Q : State → Prop} (h : StepKeeps Q) {i : Instr} {s t : State}
    (hRelock : ∀ u, Live Q u → u.blk.transceiverLocked = s.blk.transceiverLocked →
      i = .tickLockPoll → s.blk.lockPollActive = true → Q (relock u))
    (hFirst : i = .irq → s.blk.irqArmed = .oneShot → Q (firstInterrupt s))
    (hs : Q s) (he : exec i s = .next t) : Q t := by
  have start : s.blk.bringup ≠ .fatal → Live Q s := fun hf => ⟨hs, hf⟩
  have refused : ∀ c, Q (refuse c s) := fun c => h.refused s c hs
  have admitted : ∀ f, Q (f s) → Q (hostAdmitRT f s) := by
    intro f hk
    unfold hostAdmitRT
    split
    · exact hk
    · exact refused _
  cases i with
  | reset =>
    obtain ⟨hf, rfl⟩ := unlessFatal_next he
    exact h.reset s (start hf)
  | rtWrite a v =>
    obtain ⟨hf, rfl⟩ := unlessFatal_next he
    exact admitted _ (h.bus.memWrite (fun _ u hu => h.event u _ rfl hu.1) s (start hf))
  | rtRead a n =>
    obtain ⟨hf, rfl⟩ := unlessFatal_next he
    unfold rtRead
    split
    · exact admitted _ (memRead_rule (refused _) (h.bus.fault _ (start hf))
        fun _ hb hl => h.event _ _ rfl (h.bus.read _ _ _ _ hb hl (start hf)).1)
    · exact refused _
  | rtRmwClr a m =>
    obtain ⟨hf, rfl⟩ := unlessFatal_next he
    exact admitted _ (h.bus.rmwClr (fun _ hu => hu.1) s (start hf))
  | rtRmwSet a m =>
    obtain ⟨hf, rfl⟩ := unlessFatal_next he
    exact admitted _ (h.bus.rmwSet (fun _ hu => hu.1) s (start hf))
  | irq =>
    obtain ⟨hf, rfl⟩ := unlessFatal_next he
    unfold interrupt
    split
    · exact refused _
    · split
      · exact h.event s _ rfl hs
      · next ha => exact hFirst rfl ha
      · exact h.toInterruptKeeps.dispatch (start hf)
  | send req =>
    obtain ⟨hf, rfl⟩ := unlessFatal_next he
    unfold sendRequest
    split
    · exact refused _
    · split
      · exact refused _
      · split
        · exact h.event s _ rfl hs
        · next hl =>
          split
          · next hp =>
            refine h.event s _ ?_ hs
            simp only [plainEvent, eventWf, decide_eq_true_eq]
            exact buildFrame_length _ _ _ hp
          · next hp =>
            unfold startMultiPart
            split
            · exact h.fault s _ hs
            · refine h.started _ _ ?_ (by simpa [sendFrame] using hl) (h.live ?_ (start hf))
              · have : 12 < req.payload.length := by simpa using hp
                simp only [ne_eq, List.drop_eq_nil_iff, chunkBytes]
                omega
              · simp only [plainEvent, eventWf, decide_eq_true_eq]
                exact buildFrame_length _ _ _ (by simp)
  | tickSettle =>
    obtain ⟨hf, rfl⟩ := unlessFatal_next he
    unfold tickSettle
    split
    · exact refused _
    · split
      · exact refused _
      · next ha => exact h.settled s (by simpa using ha) (start hf)
  | tickLockPoll =>
    obtain ⟨hf, rfl⟩ := unlessFatal_next he
    unfold tickLockPoll
    split
    · exact refused _
    · split
      · exact refused _
      · next ha =>
        have hBus : BusClosed (fun u => Live Q u ∧ u.blk.transceiverLocked = s.blk.transceiverLocked) Q :=
          ⟨fun u hu => h.bus.fault u hu.1, fun u a n d hb hl hu => ⟨h.bus.read u a n d hb hl hu.1, hu.2⟩,
            fun u a v rx hu => ⟨h.bus.write u a v rx hu.1, hu.2⟩⟩
        refine hBus.lockEval ?_ _ ⟨start hf, rfl⟩
        intro b u hu
        split
        · exact hRelock u hu.1 hu.2 rfl (by simpa using ha)
        · exact hu.1.1
  | tickReq k =>
    obtain ⟨hf, rfl⟩ := unlessFatal_next he
    unfold tickReq
    split
    · exact refused _
    · split
      · exact refused _
      · exact h.expired s k (start hf)
  | reqArm k =>
    obtain ⟨hf, rfl⟩ := unlessFatal_next he
    unfold reqArm
    split
    · exact refused _
    · split
      · exact h.event s _ rfl hs
      · exact h.armed s k (start hf)
  | getNodePos =>
    obtain ⟨hf, rfl⟩ := unlessFatal_next he
    unfold getNodePos
    split
    · exact refused _
    · exact h.event s _ rfl hs
  | getMaxPos =>
    obtain ⟨hf, rfl⟩ := unlessFatal_next he
    unfold getMaxPos
    split
    · exact refused _
    · exact h.event s _ rfl hs

end Sys2Proof.Machine
end

