-- ==== Sys2Proof/Laws/PerInstr.lean ====
section
/-! SUPPORT. A law about every stimulus, one lemma per constructor: its encoding begins with the opcode of its row and
has the length the opcode map gives it (30_encoding.md R82). -/

namespace Sys2Proof.Laws.EncodedLength

/-- Byte 0 is the row's opcode, and the length is the row's. -/
def Statement (i : Instr) : Prop :=
  (encode i).head? = some (opcodeByte (opcodeOfInstr i)) ∧ (encode i).length = stimulusLength i

theorem reset : Statement .reset := ⟨rfl, rfl⟩
theorem rtWrite (a v : Byte) : Statement (.rtWrite a v) := ⟨rfl, rfl⟩
theorem rtRead (a n : Byte) : Statement (.rtRead a n) := ⟨rfl, rfl⟩
theorem rtRmwClr (a m : Byte) : Statement (.rtRmwClr a m) := ⟨rfl, rfl⟩
theorem rtRmwSet (a m : Byte) : Statement (.rtRmwSet a m) := ⟨rfl, rfl⟩
theorem irq : Statement .irq := ⟨rfl, rfl⟩
theorem send (req : TxRequest) : Statement (.send req) := by
  refine ⟨rfl, ?_⟩
  simp [encode, operandBytes, stimulusLength]
  omega
theorem tickSettle : Statement .tickSettle := ⟨rfl, rfl⟩
theorem tickLockPoll : Statement .tickLockPoll := ⟨rfl, rfl⟩
theorem tickReq (k : ReqKind) : Statement (.tickReq k) := ⟨rfl, rfl⟩
theorem reqArm (k : ReqKind) : Statement (.reqArm k) := ⟨rfl, rfl⟩
theorem getNodePos : Statement .getNodePos := ⟨rfl, rfl⟩
theorem getMaxPos : Statement .getMaxPos := ⟨rfl, rfl⟩

end Sys2Proof.Laws.EncodedLength
end

