-- ==== Sys2Proof/Machine/Assembler.lean ====
section
/-! DEFINITION. The assembler's text (30_encoding.md R100) and the pseudo-operations (R101). No step reads any of it:
a program reaches the block as bytes. What R100 leaves open of the text is log 7. -/

namespace Sys2Proof.Machine

/-! ### Numbers and operands -/

/-- The value of a digit in a base of at most 16. -/
def digitValue (base : Nat) (c : Char) : Option Nat :=
  let n := c.toNat
  let d :=
    if 48 ≤ n ∧ n ≤ 57 then n - 48
    else if 65 ≤ n ∧ n ≤ 70 then n - 55
    else if 97 ≤ n ∧ n ≤ 102 then n - 87
    else base
  if d < base then some d else none

/-- The number a list of digits adds to `acc`. -/
def readDigits (base : Nat) : Nat → List Char → Option Nat
  | acc, [] => some acc
  | acc, c :: more =>
    match digitValue base c with
    | some d => readDigits base (base * acc + d) more
    | none => none

/-- "Numbers are hexadecimal with `0x` or decimal" (R100). -/
def readNumber : List Char → Option Nat
  | [] => none
  | ['0', 'x'] => none
  | '0' :: 'x' :: hex => readDigits 16 0 hex
  | decimal => readDigits 10 0 decimal

/-- A number of at most `max`. -/
def readUpTo (max : Nat) (t : List Char) : Option Nat :=
  match readNumber t with
  | some n => if n ≤ max then some n else none
  | none => none

/-- A u8 operand. -/
def readByte (t : List Char) : Option Byte := (readUpTo 0xFF t).map (BitVec.ofNat 8)

/-- `k`: a name, or 0, 1 or 2 (R100). -/
def readKind (t : List Char) : Option ReqKind :=
  if t = "ALLOC".toList then some .alloc
  else if t = "GETSRC".toList then some .getSource
  else if t = "DEALLOC".toList then some .dealloc
  else (readUpTo 2 t).bind fun n => kindOf (BitVec.ofNat 8 n)

/-- Every element of a list, if all are there. -/
def allOf {α : Type} : List (Option α) → Option (List α)
  | [] => some []
  | none :: _ => none
  | some x :: more => (allOf more).map (x :: ·)

/-! ### Cutting a line -/

/-- A blank character. -/
def isBlank (c : Char) : Bool := c == ' ' || c == '\t' || c == '\r'

/-- The text without blanks at its ends. -/
def trim (t : List Char) : List Char := ((t.dropWhile isBlank).reverse.dropWhile isBlank).reverse

/-- The parts of a text between the separators. -/
def cut (sep : Char) : List Char → List (List Char)
  | [] => [[]]
  | c :: more =>
    match cut sep more with
    | [] => [[c]]
    | part :: parts => if c = sep then [] :: part :: parts else (c :: part) :: parts

/-- The comma-separated operands of a text; none in an empty one. -/
def operandsOf (t : List Char) : List (List Char) :=
  if trim t = [] then [] else (cut ',' t).map trim

/-! ### The lines -/

/-- The SEND line: it computes `fo` and `L`, and rejects `fn > 0xFFF`, `op > 0xF` and more than 4095 payload bytes
(R100). -/
def assembleSend (tH tL fb inst : Byte) (fn op : Nat) (payload : List Byte) : Option Instr :=
  if fn ≤ 0xFFF ∧ op ≤ 0xF ∧ payload.length ≤ maxPayload then
    some (.send
      { hdr := { tH := tH, tL := tL, fb := fb, inst := inst, fn := BitVec.ofNat 12 fn, op := BitVec.ofNat 4 op },
        payload := payload })
  else none

/-- The operands of a SEND line: six numbers, then the payload bytes in brackets. -/
def assembleSendOperands (t : List Char) : Option Instr :=
  match cut '[' t with
  | [front, tail] =>
    match (cut ',' front).map trim, cut ']' tail with
    | [tH, tL, fb, inst, fn, op, []], [inside, after] =>
      if trim after = [] then
        match allOf ([tH, tL, fb, inst].map readByte), readNumber fn, readNumber op,
            allOf ((operandsOf inside).map readByte) with
        | some [tH, tL, fb, inst], some fn, some op, some payload => assembleSend tH tL fb inst fn op payload
        | _, _, _, _ => none
      else none
    | _, _ => none
  | _ => none

/-- A line with two u8 operands. -/
def assembleTwo (mk : Byte → Byte → Instr) (t : List Char) : Option Instr :=
  match (operandsOf t).map readByte with
  | [some x, some y] => some (mk x y)
  | _ => none

/-- A line with the operand `k`. -/
def assembleKind (mk : ReqKind → Instr) (t : List Char) : Option Instr :=
  match operandsOf t with
  | [k] => (readKind k).map mk
  | _ => none

/-- A line with no operand. -/
def assembleNone (i : Instr) (t : List Char) : Option Instr := if trim t = [] then some i else none

/-- The stimulus of a mnemonic and the text after it (R100). -/
def assembleStimulus (mnemonic t : List Char) : Option Instr :=
  if mnemonic = "RESET".toList then assembleNone .reset t
  else if mnemonic = "RT_WRITE".toList then assembleTwo .rtWrite t
  else if mnemonic = "RT_READ".toList then assembleTwo .rtRead t
  else if mnemonic = "RT_RMWCLR".toList then assembleTwo .rtRmwClr t
  else if mnemonic = "RT_RMWSET".toList then assembleTwo .rtRmwSet t
  else if mnemonic = "IRQ".toList then assembleNone .irq t
  else if mnemonic = "SEND".toList then assembleSendOperands t
  else if mnemonic = "TICK_SETTLE".toList then assembleNone .tickSettle t
  else if mnemonic = "TICK_LOCK_POLL".toList then assembleNone .tickLockPoll t
  else if mnemonic = "TICK_REQ".toList then assembleKind .tickReq t
  else if mnemonic = "REQ_ARM".toList then assembleKind .reqArm t
  else if mnemonic = "GET_NODE_POS".toList then assembleNone .getNodePos t
  else if mnemonic = "GET_MAX_POS".toList then assembleNone .getMaxPos t
  else none

/-- `BRINGUP` is `RESET ; TICK_SETTLE ; IRQ` (R101). -/
def bringupProgram : List Instr := [.reset, .tickSettle, .irq]

/-- A line without its comment: everything from the first `;` on. DEDUCED (log 7), safe: R100 names only a line that
starts with `;`, and the R100 assembly of 95_test_vectors.md part 3 writes comments after a stimulus too. -/
def withoutComment (line : List Char) : List Char := line.takeWhile (· ≠ ';')

/-- The stimuli of one line: none for a comment (R100) or an empty line, three for BRINGUP (R101); a comment after a
stimulus is ignored (log 7). -/
def assembleLine (line : List Char) : Option (List Instr) :=
  match trim (withoutComment line) with
  | [] => some []
  | t =>
    if t = "BRINGUP".toList then some bringupProgram
    else (assembleStimulus (t.takeWhile fun c => !isBlank c) (t.dropWhile fun c => !isBlank c)).map ([·])

/-- The stimuli of a program's text, one line each. -/
def assemble (text : String) : Option (List Instr) :=
  (allOf ((cut '\n' text.toList).map assembleLine)).map List.flatten

/-- The bytes of a program (R80: "a concatenation of stimuli"). -/
def programBytes (is : List Instr) : List Byte := (is.map encode).flatten

/-! ### The pseudo-operations inside the block's rules -/

/-- What `ClearReason(k)` stands for (R101). -/
def expandClearReason (P : Params) (k : Reason) : Instr :=
  match P.clrPolarity with
  | .writeZero => .rtRmwClr P.regCtrl (reasonMask P k)
  | .writeOne => .rtRmwSet P.regCtrl (reasonMask P k)

/-- What `ReenableRx` stands for (R101). -/
def expandReenableRx (P : Params) : Instr :=
  match P.rbePolarity with
  | .set => .rtRmwSet P.regRbe P.mRbe
  | .clear => .rtRmwClr P.regRbe P.mRbe

end Sys2Proof.Machine
end

