-- ==== Sys2Proof/Tests/Slice0.lean ====
section
/-! SUPPORT. Tests of one step each, with results taken from spec/95_test_vectors.md by row, the decoding of words
written out from 30_encoding.md, the well-formedness smoke tests, and one witness for each statement that has
hypotheses. -/

namespace Sys2Proof.Tests

open Sys2Proof Sys2Proof.Machine

/-! ### Small states -/

/-- TCFG, the test parameters of 95_test_vectors.md. -/
def tcfg : Params where
  regStatus := 0xE0
  regCtrl := 0xE1
  regFault := 0xE2
  regPll := 0xE3
  regFreq := 0xE4
  regRxBuf := 0xA0
  regMbox := 0xC0
  regRbe := 0xE5
  regNpr := 0xE6
  regMpr := 0xE7
  matchRx := .anySet 0x01
  matchErr := .anySet 0x02
  matchTx := .anySet 0x04
  matchNc := .anySet 0x08
  cRx := 0x01
  cErr := 0x02
  cTx := 0x04
  cNc := 0x08
  clrPolarity := .writeZero
  mRbe := 0x01
  rbePolarity := .set
  mLockActive := 0x10
  mPll := 0x01
  mFreq := 0x02
  txStartByte := 0x5A
  txReservedByte := 0x00
  isExtended := .anySet 0x80
  isMaster := false
  configTable := [(0x80, 0x01), (0x81, 0x10), (0x82, 0x02)]
  ncPosition := .none
  mpGatePolicy := .fixed .advance
  allocLayout := { answer := 0, label := 2, ch0 := 3, ch1 := 4, ch2 := 5, ch3 := 6 }
  deallocAnswerIndex := 0

/-- A state with the block `b` under TCFG. -/
def withBlock (b : Block) : State := { cfg := tcfg, blk := b, env := Env.silent }

/-- `OP(locked)`: OPERATIONAL_CLEAN of 70_reset_and_hazards.md R276, with an empty trace. -/
def op (locked : Bool) : State :=
  withBlock { Block.launch .asserted with
    bringup := .operational
    irqArmed := .steadyState
    transceiverLocked := locked
    lockPollActive := !locked }

/-- The state after B1: a RESET of the launch state. -/
def resetting : State := withBlock Block.afterReset

/-- The state after B3, with an empty trace. -/
def awaiting1 : State :=
  withBlock { Block.launch .asserted with bringup := .awaitingFirstInterrupt, irqArmed := .oneShot }

/-- The launch state. -/
def launched : State := State.launch tcfg .asserted

/-- A state in Fatal. -/
def fatal : State := withBlock (markFault .transport (op true).blk)

/-- The state with the chip's next answers fixed. -/
def answering (rs : List BusReply) (s : State) : State := { s with env := { s.env with replies := rs } }

/-- The state with the parameters changed. -/
def under (f : Params → Params) (s : State) : State := { s with cfg := f s.cfg }

/-- The state with bytes to present. -/
def presenting (bytes : List Byte) (s : State) : State := { s with env := { s.env with program := bytes } }

/-- The block after a step, none where there is no step. -/
def after (o : Outcome) : Option Block :=
  match o with
  | .next t => some t.blk
  | _ => none

/-- The trace after a step. -/
def traceAfter (o : Outcome) : Option (List Event) := (after o).map (·.trace)

/-- The header of part 2.4. -/
def hdr : Header := { tH := 0x01, tL := 0x00, fb := 0x22, inst := 0x01, fn := 0x400, op := 0x2 }

/-- The payload of part 2.4: `p[i] = i + 1`, modulo 256. -/
def payload (len : Nat) : List Byte := (List.range len).map fun i => BitVec.ofNat 8 (i + 1)

/-- The session after M3's SEND step. -/
def session3 : Session := { hdr := hdr, remaining := (payload 23).drop 11, seq := 1 }

/-- The mailbox of program P2: a Grant with label 7. -/
def mailbox : List Byte :=
  [0, 1, 0, 0x22, 1, 0x40, 0x0C, 7, 1, 5, 7, 0x10, 0x11, 0x12, 0x13, 0, 0, 0, 0, 0]

/-- The allocation result of program P2. -/
def granted : AllocationResult :=
  { channelLocations := { ch0 := 0x10, ch1 := 0x11, ch2 := 0x12, ch3 := 0x13 }
    connectionLabel := 7
    answer := .grant
    freeChannels := 5 }

/-- The receive buffer of program P4, step 1 (row P1v). -/
def rxBuffer : List Byte := [0x00, 0x01, 0x61, 0x22, 0x01, 0x40, 0x0C, 0x03, 0x11, 0x22, 0x33] ++ List.replicate 9 0

/-! ### Well-formedness: a term that each check refuses -/

theorem test_wf_read_of_no_byte : (Instr.rtRead 0x10 0).wellFormed = false := by decide
theorem test_wf_read_past_the_top : (Instr.rtRead 0xFF 2).wellFormed = false := by decide
theorem test_wf_read_of_the_top : (Instr.rtRead 0xFF 1).wellFormed = true := by decide
theorem test_wf_payload_too_long : (Instr.send { hdr := hdr, payload := List.replicate 4096 0 }).wellFormed = false := by
  simp only [Instr.wellFormed, List.length_replicate]; decide
theorem test_wf_longest_payload : (Instr.send { hdr := hdr, payload := List.replicate 4095 0 }).wellFormed = true := by
  simp only [Instr.wellFormed, List.length_replicate]; decide
/-- The two buffers must fit (20_memory.md R70). -/
theorem test_wf_params : tcfg.wellFormed = true ∧ { tcfg with regMbox := 0xED }.wellFormed = false := by decide

/-! ### Decoding words written out from 30_encoding.md R82 to R89 -/

theorem test_decode_reset : decode [0x00] = .ok (.reset, []) := by decide
theorem test_decode_rtWrite : decode [0x01, 0x12, 0x34] = .ok (.rtWrite 0x12 0x34, []) := by decide
theorem test_decode_rtRead : decode [0x02, 0xA0, 0x14] = .ok (.rtRead 0xA0 20, []) := by decide
theorem test_decode_rtRmwClr : decode [0x03, 0x20, 0x02] = .ok (.rtRmwClr 0x20 0x02, []) := by decide
theorem test_decode_rtRmwSet : decode [0x04, 0x20, 0x80] = .ok (.rtRmwSet 0x20 0x80, []) := by decide
theorem test_decode_irq : decode [0x10, 0xFF] = .ok (.irq, [0xFF]) := by decide
/-- E5: every `fo` is legal, and L may be 0. -/
theorem test_decode_send : decode [0x20, 0x01, 0x00, 0x22, 0x01, 0xFF, 0xFE, 0x00, 0x00] =
    .ok (.send { hdr := { tH := 1, tL := 0, fb := 0x22, inst := 1, fn := 0xFFF, op := 0xE }, payload := [] }, []) := by
  decide
theorem test_decode_tickSettle : decode [0x30] = .ok (.tickSettle, []) := by decide
theorem test_decode_tickLockPoll : decode [0x31] = .ok (.tickLockPoll, []) := by decide
theorem test_decode_tickReq : decode [0x32, 0x01] = .ok (.tickReq .getSource, []) := by decide
theorem test_decode_reqArm : decode [0x40, 0x00] = .ok (.reqArm .alloc, []) := by decide
theorem test_decode_getNodePos : decode [0x50] = .ok (.getNodePos, []) := by decide
theorem test_decode_getMaxPos : decode [0x51] = .ok (.getMaxPos, []) := by decide
/-- E7, E9, E10, E12 to E16. -/
theorem test_decode_refusals :
    decode [0x05] = .error .unknownOpcode ∧ decode [0x40] = .error .malformed ∧
    decode [0x20, 0x01, 0x00, 0x22, 0x01, 0x40, 0x02, 0x00, 0x05, 0x01, 0x02] = .error .malformed ∧
    decode [0x20, 0, 0, 0, 0, 0, 0, 0x10, 0x00] = .error .malformed ∧
    decode [0x32, 0x03] = .error .fieldRange ∧ decode [0x40, 0xFF] = .error .fieldRange ∧
    decode [0x02, 0xFF, 0x02] = .error .fieldRange ∧ decode [0x02, 0x10, 0x00] = .error .fieldRange := by decide
/-- E8. -/
theorem test_decode_program : decodeProgram [0x10, 0xFF, 0x00] = ([.irq], some (.unknownOpcode, 1)) := by decide
/-- 30_encoding.md R100: the assembler's ranges. -/
theorem test_assemble_send :
    assembleSend 1 0 0x22 1 0x400 2 [] = some (.send { hdr := hdr, payload := [] }) ∧
    assembleSend 1 0 0x22 1 0x1000 2 [] = none ∧ assembleSend 1 0 0x22 1 0x400 16 [] = none := by decide
/-- R100: one line with numbers in both bases and a payload (row E4). -/
theorem test_assemble_send_line :
    assemble "SEND 0x01, 0, 0x22, 1, 0x400, 2, [0xAA, 187]" =
      some [.send { hdr := hdr, payload := [0xAA, 0xBB] }] := by decide
/-- P1 of 95_test_vectors.md part 3, with its comments, and its encoding there. -/
theorem test_assemble_p1 :
    (assemble "RESET\nTICK_SETTLE\nRT_READ 0x90, 1        ; a lock-source probe\nIRQ   ; the first; configure\nTICK_REQ DEALLOC;").map
      programBytes = some [0x00, 0x30, 0x02, 0x90, 0x01, 0x10, 0x32, 0x02] := by decide
/-- R100 and R101: a comment, BRINGUP, a name for `k`, two operands. -/
theorem test_assemble_program :
    assemble "; boot\nBRINGUP\nTICK_REQ DEALLOC\nRT_READ 0xA0, 20" =
      some [.reset, .tickSettle, .irq, .tickReq .dealloc, .rtRead 0xA0 20] := by decide
/-- R100: an operand missing, a `k` that is none of the three, an unknown mnemonic. -/
theorem test_assemble_rejects :
    assemble "RT_WRITE 1" = none ∧ assemble "REQ_ARM 3" = none ∧ assemble "NOP" = none := by decide
/-- The numbers of the codes (60_exceptions.md R240, R242). -/
theorem test_code_numbers :
    [FaultCode.transport, .mpOverlap].map faultNumber = [0x01, 0x02] ∧
    [RefusalCode.unknownOpcode, .malformed, .fieldRange, .state, .notEnabled].map refusalNumber =
      [0x81, 0x82, 0x83, 0x84, 0x85] := by decide

/-! ### One step of each stimulus -/

/-- B2: a second RESET. -/
theorem test_reset_again :
    traceAfter (exec .reset resetting) = some [.resetLine .deasserted, .resetLine .deasserted] := by decide
/-- B6: a RESET of a block with a session, a flag and a timeout. -/
theorem test_reset_clears :
    after (exec .reset (withBlock { (op true).blk with
      mpSession := some session3, awaitAlloc := true, reqTimers := { alloc := 1, getSource := 0, dealloc := 0 } })) =
    some Block.afterReset := by decide
/-- T2. -/
theorem test_rtWrite_answer :
    traceAfter (exec (.rtWrite 0x12 0x34) (answering [.ok [0x9C]] resetting)) =
      some [.resetLine .deasserted, .regWrite 0x12 0x34 0x9C, .hostReturn (.byte 0x9C)] := by decide
/-- T11. -/
theorem test_rtWrite_refused :
    after (exec (.rtWrite 0x12 0x34) (op true)) = some (markRefused .state (op true).blk) := by decide
/-- T3. -/
theorem test_rtRead_burst :
    traceAfter (exec (.rtRead 0x10 2) (answering [.ok [0xAB, 0xCD]] resetting)) =
      some [.resetLine .deasserted, .regRead 0x10 2 [0xAB, 0xCD], .hostReturn (.bytes [0xAB, 0xCD])] := by decide
/-- 60_exceptions.md R243: the range check comes before the state check. -/
theorem test_rtRead_range_first :
    (after (exec (.rtRead 0xFF 2) launched)).map (·.refusedCode) = some (some .fieldRange) := by decide
/-- T5. -/
theorem test_rtRmwClr_bits :
    traceAfter (exec (.rtRmwClr 0x20 0x02) (answering [.ok [0x07], .ok [0]] resetting)) =
      some [.resetLine .deasserted, .regRead 0x20 1 [0x07], .regWrite 0x20 0x05 0] := by decide
/-- T14: the write fails, the read stays in the trace. -/
theorem test_rtRmwClr_failed_write :
    after (exec (.rtRmwClr 0x20 0x02) (answering [.ok [0x07], .error] resetting)) =
      some { Block.afterReset with
        bringup := .fatal
        fault := some .transport
        trace := [.resetLine .deasserted, .regRead 0x20 1 [0x07]] } := by decide
/-- T8. -/
theorem test_rtRmwSet_bits :
    traceAfter (exec (.rtRmwSet 0x20 0x80) (answering [.ok [0x05], .ok [0]] resetting)) =
      some [.resetLine .deasserted, .regRead 0x20 1 [0x05], .regWrite 0x20 0x85 0] := by decide
/-- T13 for the setting form: the read fails. -/
theorem test_rtRmwSet_failed_read :
    after (exec (.rtRmwSet 0x20 0x80) (answering [.error] resetting)) =
      some (markFault .transport Block.afterReset) := by decide
/-- D5: TX outranks NC, and only its own reason is cleared. -/
theorem test_irq_priority :
    traceAfter (exec .irq (answering [.ok [0x0C], .ok [0x0C], .ok [0]] (op true))) =
      some [.regRead 0xE0 1 [0x0C], .regRead 0xE1 1 [0x0C], .regWrite 0xE1 0x08 0, .messageSent] := by decide
/-- K1: the lock is lost, the error reason not cleared. -/
theorem test_irq_lock_loss :
    after (exec .irq (answering [.ok [0x02], .ok [0x10]] (op true))) =
      some { (op false).blk with
        trace := [.regRead 0xE0 1 [0x02], .regRead 0xE2 1 [0x10], .unlocked] } := by decide
/-- F3: the slot byte by byte. -/
theorem test_send_single :
    traceAfter (exec (.send { hdr := hdr, payload := [0xAA, 0xBB] }) (op true)) =
      some [.frameOut ([0x5A, 0x00, 0x01, 0x00, 0x22, 0x01, 0x40, 0x02, 0x02, 0xAA, 0xBB] ++ List.replicate 10 0)] := by
  decide
/-- M1: the first of two chunks, and the session after it. -/
theorem test_send_first_chunk :
    after (exec (.send { hdr := hdr, payload := payload 13 }) (op true)) =
      some { (op true).blk with
        mpSession := some { hdr := hdr, remaining := [0x0C, 0x0D], seq := 1 }
        trace := [.frameOut [0x5A, 0x00, 0x01, 0x00, 0x22, 0x01, 0x40, 0x02, 0x1C,
          0x00, 0x01, 0x02, 0x03, 0x04, 0x05, 0x06, 0x07, 0x08, 0x09, 0x0A, 0x0B]] } := by decide
/-- B3. -/
theorem test_tickSettle_arms :
    after (exec .tickSettle resetting) =
      some { awaiting1.blk with trace := [.resetLine .deasserted, .resetLine .asserted] } := by decide
/-- B5: the state check precedes the enable check. -/
theorem test_tickSettle_off :
    (after (exec .tickSettle launched)).map (·.refusedCode) = some (some .state) := by decide
/-- K7. -/
theorem test_tickLockPoll_relock :
    after (exec .tickLockPoll (answering [.ok [0], .ok [0], .ok [0x02], .ok [0]] (op false))) =
      some { (op true).blk with trace := [.regRead 0xE3 1 [0], .regRead 0xE4 1 [0], .locked,
        .regRead 0xE1 1 [0x02], .regWrite 0xE1 0x00 0] } := by decide
/-- K9: `Locked` is in the trace, the flag is still down. -/
theorem test_tickLockPoll_failed_write :
    after (exec .tickLockPoll (answering [.ok [0], .ok [0], .ok [0x02], .error] (op false))) =
      some { markFault .transport (op false).blk with
        trace := [.regRead 0xE3 1 [0], .regRead 0xE4 1 [0], .locked, .regRead 0xE1 1 [0x02]] } := by decide
/-- Q2, the tick: the flag is cleared while one timeout is still armed. -/
theorem test_tickReq_one_of_two :
    after (exec (.tickReq .alloc) (withBlock { (op true).blk with
      awaitAlloc := true, reqTimers := { alloc := 2, getSource := 0, dealloc := 0 } })) =
    some { (op true).blk with reqTimers := { alloc := 1, getSource := 0, dealloc := 0 } } := by decide
/-- Q5. -/
theorem test_tickReq_not_enabled :
    after (exec (.tickReq .getSource) (op true)) = some (markRefused .notEnabled (op true).blk) := by decide
/-- Q1, the arm. -/
theorem test_reqArm_alloc :
    after (exec (.reqArm .alloc) (op true)) =
      some { (op true).blk with
        awaitAlloc := true, reqTimers := { alloc := 1, getSource := 0, dealloc := 0 } } := by decide
/-- Q3. -/
theorem test_reqArm_no_label :
    after (exec (.reqArm .dealloc) (op true)) =
      some { (op true).blk with trace := [.log .deallocNoLabel] } := by decide
/-- Q9. -/
theorem test_getNodePos_none :
    traceAfter (exec .getNodePos (op true)) = some [.hostReturn (.position none)] := by decide
/-- D3, the later getter. -/
theorem test_getNodePos_cached :
    traceAfter (exec .getNodePos (withBlock { (op true).blk with nodePosition := some 2, maxPosition := some 5 })) =
      some [.hostReturn (.position (some 2))] := by decide
/-- D3, the later getter of the other position. -/
theorem test_getMaxPos_cached :
    traceAfter (exec .getMaxPos (withBlock { (op true).blk with nodePosition := some 2, maxPosition := some 5 })) =
      some [.hostReturn (.position (some 5))] := by decide
/-- R225 with 10_state.md R46: refused in Off. -/
theorem test_getMaxPos_off :
    (after (exec .getMaxPos launched)).map (·.refusedCode) = some (some .state) := by decide
/-- P3v: a buffer whose length field disagrees with its payload is accepted. -/
theorem test_parse_inbound :
    decodeFrame tcfg ([0, 0, 0, 0, 0, 0xAB, 0xCD, 0xF5] ++ List.replicate 12 0xEE) =
      { sourceAddressHigh := 0, sourceAddressLow := 0, fBlockId := 0, instanceId := 0, functionId := 0xABC,
        opType := 0xD, telegramId := 15, telegramLen := 5, payload := List.replicate 12 0xEE } := by decide
/-- A2, A6: freeChannels and the label of an answer. -/
theorem test_alloc_answers :
    (allocDecode tcfg [2, 5, 7, 0x10, 0x11, 0x12, 0x13, 0, 0, 0, 0, 0]).freeChannels = 5 ∧
    (allocDecode tcfg [5, 5, 7, 0x10, 0x11, 0x12, 0x13, 0, 0, 0, 0, 0]).freeChannels = 0 ∧
    (allocDecode tcfg [5, 5, 7, 0x10, 0x11, 0x12, 0x13, 0, 0, 0, 0, 0]).answer = .error ∧
    allocDecode tcfg (decodeFrame tcfg mailbox).payload = granted := by decide

/-! ### Witnesses: for each statement with hypotheses, a state and operands that meet all of them -/

theorem witness_StepRunsTheDecodedStimulus :
    let s := presenting [0x10, 0x10] (op true)
    s.blk.bringup ≠ .fatal ∧ s.env.ended = none ∧ decode s.env.program = .ok (.irq, [0x10]) := by decide

theorem witness_DecodeAfterEncode :
    (Instr.rtRead 0xFF 1).wellFormed = true ∧ (Instr.send { hdr := hdr, payload := payload 13 }).wellFormed = true := by
  decide

theorem witness_EncodeAfterDecode : decode [0x02, 0xFF, 0x01, 0x10] = .ok (.rtRead 0xFF 1, [0x10]) := by decide

/-- The shortest and the longest cut. -/
theorem witness_TruncatedStimulusIsMalformed :
    (Instr.rtRead 0xFF 1).wellFormed = true ∧ 0 < 1 ∧ 1 < (encode (.rtRead 0xFF 1)).length ∧
    0 < 2 ∧ 2 < (encode (.rtRead 0xFF 1)).length := by decide

/-- The lowest reserved opcode; no byte, and one byte too many; the first `k` past the kinds. -/
theorem witness_IllegalEncodingsAreRefused :
    (0x05 : Byte) ∉
      ([0x00, 0x01, 0x02, 0x03, 0x04, 0x10, 0x20, 0x30, 0x31, 0x32, 0x40, 0x50, 0x51] : List Byte) ∧
    ((0 : Byte) = 0 ∨ 0xFF < (0x10 : Byte).toNat + (0 : Byte).toNat - 1) ∧
    ((2 : Byte) = 0 ∨ 0xFF < (0xFF : Byte).toNat + (2 : Byte).toNat - 1) ∧ 3 ≤ (3 : Byte).toNat := by decide

/-- The first payload length past the range. -/
theorem witness_IllegalEncodingsAreRefused_send :
    4095 < 256 * (0x10 : Byte).toNat + (0x00 : Byte).toNat ∧
    256 * (0x10 : Byte).toNat + (0x00 : Byte).toNat ≤ (List.replicate 4096 (0 : Byte)).length := by
  simp only [List.length_replicate]; decide

/-- E12, its header cut short by one byte, and E10. -/
theorem witness_IllegalEncodingsAreRefused_short :
    ([] : List Byte).length < 256 * (0x10 : Byte).toNat + (0x00 : Byte).toNat ∧
    [(0x01 : Byte), 0x02].length < 256 * (0x00 : Byte).toNat + (0x05 : Byte).toNat ∧
    [(0 : Byte), 0, 0, 0, 0, 0, 0x10].length < 8 := by decide

theorem witness_ProgramDecodingIsTotal :
    (decodeProgram [0x10, 0x30]).2 = none ∧ (decodeProgram [0x10, 0xFF]).2 = some (.unknownOpcode, 1) := by decide

theorem witness_DecodeRefusalEndsTheRun :
    let s := presenting [0x40] (op true)
    s.blk.bringup ≠ .fatal ∧ s.env.ended = none ∧ s.env.program ≠ [] ∧
      decode s.env.program = .error .malformed := by decide

theorem witness_FatalHasNoStep : fatal.blk.bringup = .fatal := by decide

theorem witness_ResetStimulusSetsResetValues :
    fatal.blk.bringup = .fatal ∧ (op true).blk.bringup ≠ .fatal := by decide

/-- B3, B5 and B4. -/
theorem witness_SettleTickArmsTheWatch :
    resetting.blk.bringup ≠ .fatal ∧ resetting.blk.bringup ≠ .off ∧ resetting.blk.settleArmed = true ∧
    launched.blk.bringup ≠ .fatal ∧ launched.blk.bringup = .off ∧
    awaiting1.blk.bringup ≠ .fatal ∧ awaiting1.blk.bringup ≠ .off ∧ awaiting1.blk.settleArmed = false := by decide

theorem witness_OffAdmitsOnlyReset :
    launched.blk.bringup = .off ∧ Instr.rtRead 0xFF 1 ≠ .reset ∧ (Instr.rtRead 0xFF 1).wellFormed = true := by decide

theorem witness_TimerStimulusNeedsItsTimer :
    (op true).blk.bringup ≠ .fatal ∧ (op true).blk.bringup ≠ .off ∧ timerEnabled (op true).blk .tickSettle = false ∧
    timerEnabled (op true).blk .tickLockPoll = false ∧ timerEnabled (op true).blk (.tickReq .dealloc) = false := by
  decide

/-- The chip's answers to the first interrupt of program P1, `p` from the PLL register. -/
def firstAnswers (p : Byte) : List BusReply := [.ok [0], .ok [0], .ok [0], .ok [p], .ok [0], .ok [0], .ok [0]]

/-- P1, step 4: the lock is found. -/
theorem witness_FirstInterruptConfiguresTheChip_locked :
    let s := answering (firstAnswers 0) awaiting1
    watching s = true ∧ [(0 : Byte), 0, 0].length = s.cfg.configTable.length ∧ bothLocked s.cfg 0 0 = true ∧
    chipPlays (tableEvents s.cfg.configTable [0, 0, 0] ++ [.allocPortReq .deallocAll 0x7F#8] ++ evalEvents s.cfg 0 0
      ++ [.locked] ++ clearEvents s.cfg .err 0 0) s = true := by decide

/-- V2: the lock is not found. -/
theorem witness_FirstInterruptConfiguresTheChip_unlocked :
    let s := answering (firstAnswers 1) awaiting1
    watching s = true ∧ [(0 : Byte), 0, 0].length = s.cfg.configTable.length ∧ bothLocked s.cfg 1 0 = false ∧
    chipPlays (tableEvents s.cfg.configTable [0, 0, 0] ++ [.allocPortReq .deallocAll 0x7F#8] ++ evalEvents s.cfg 1 0)
      s = true := by decide

/-- The chip fails the access of event `n` of the sequence, after playing those before it. -/
def failsAt (n : Nat) (evs : List Event) (s : State) : Bool :=
  match evs[n]?.bind recordedAccess with
  | some (acc, _) => chipPlays (evs.take n) s && busReply acc (played (evs.take n) s) == none
  | none => false

/-- B8, the first configuration write, and the last one. -/
theorem witness_FailedAccessKeepsEarlierEffects_table :
    let starting := onBlock fun b => { b with irqArmed := .none, bringup := .configuring }
    watching awaiting1 = true ∧ [(0 : Byte), 0, 0].length = awaiting1.cfg.configTable.length ∧
    failsAt 0 (tableEvents tcfg.configTable [0, 0, 0]) (starting (answering [.error] awaiting1)) = true ∧
    failsAt 2 (tableEvents tcfg.configTable [0, 0, 0]) (starting (answering [.ok [0], .ok [0], .error] awaiting1)) =
      true := by decide

/-- After the table, the first read of the lock check and the last write of its relock. -/
theorem witness_FailedAccessKeepsEarlierEffects_check :
    let evs := tableEvents tcfg.configTable [0, 0, 0] ++ [.allocPortReq .deallocAll 0x7F#8]
    let done := onBlock fun b => { b with
      irqArmed := .steadyState
      bringup := .operational
      awaitDealloc := true
      reqTimers := { b.reqTimers with dealloc := b.reqTimers.dealloc + 1 } }
    let s := answering ((firstAnswers 0).take 3 ++ [.error]) awaiting1
    let u := answering ((firstAnswers 0).take 6 ++ [.error]) awaiting1
    watching s = true ∧ chipPlays evs s = true ∧
    failsAt 0 (checkEvents tcfg 0 0 0 0) (done (played evs s)) = true ∧
    watching u = true ∧ chipPlays evs u = true ∧
    failsAt 4 (checkEvents tcfg 0 0 0 0) (done (played evs u)) = true := by decide

/-- A lock poll: its two reads without a lock, and the read and the write of its relock (K9). -/
theorem witness_FailedAccessKeepsEarlierEffects_poll :
    (op false).blk.bringup ≠ .fatal ∧ (op false).blk.bringup ≠ .off ∧ (op false).blk.lockPollActive = true ∧
    failsAt 0 (checkEvents tcfg 1 0 0 0) (answering [.error] (op false)) = true ∧
    failsAt 1 (checkEvents tcfg 1 0 0 0) (answering [.ok [1], .error] (op false)) = true ∧
    failsAt 3 (checkEvents tcfg 0 0 2 0) (answering [.ok [0], .ok [0], .error] (op false)) = true ∧
    failsAt 4 (checkEvents tcfg 0 0 2 0) (answering [.ok [0], .ok [0], .ok [2], .error] (op false)) = true := by
  decide

/-- D10, the status read; and the last access of the RX and ERR branches. -/
theorem witness_FailedAccessKeepsEarlierEffects_rx_err :
    let rx : List Event := [.regRead 0xE0 1 [1], .regRead 0xA0 20 rxBuffer, .mostMessageRx (decodeFrame tcfg rxBuffer)]
      ++ clearEvents tcfg .rx 1 0 ++ [.regRead 0xE5 1 [0], .regWrite 0xE5 (reenabled tcfg 0) 0]
    let err : List Event := [.regRead 0xE0 1 [2], .regRead 0xE2 1 [0]] ++ clearEvents tcfg .err 2 0
    serving (op true) = true ∧ failsAt 0 [.regRead 0xE0 1 [0]] (answering [.error] (op true)) = true ∧
    tcfg.wellFormed = true ∧ reasonOf tcfg 1 = some .rx ∧
    failsAt 6 rx (answering [.ok [1], .ok rxBuffer, .ok [1], .ok [0], .ok [0], .error] (op true)) = true ∧
    reasonOf tcfg 2 = some .err ∧ lockLossCondition tcfg (op true).blk.transceiverLocked 0 = false ∧
    failsAt 3 err (answering [.ok [2], .ok [0], .ok [2], .error] (op true)) = true := by decide

/-- The mailbox of the TX branch, and the last access of the NC branch under each policy. -/
theorem witness_FailedAccessKeepsEarlierEffects_tx_nc :
    let tx : List Event := .regRead 0xE0 1 [4] :: clearEvents tcfg .tx 4 0 ++ [.regRead 0xC0 20 mailbox]
    let cleared : List Event := .regRead 0xE0 1 [8] :: clearEvents tcfg .nc 8 0
    let positions : List Event := [.regRead 0xE6 1 [2], .regRead 0xE7 1 [5]]
    let waiting := withBlock { (op true).blk with awaitAlloc := true }
    let answers : List BusReply := [.ok [8], .ok [8], .ok [0], .ok [2], .error]
    let reading := under (fun P => { P with ncPosition := .read }) (answering answers (op true))
    let drawing := under (fun P => { P with ncPosition := .either }) (answering answers
      { op true with env := { Env.silent with ncDraws := [true] } })
    serving waiting = true ∧ reasonOf tcfg 4 = some .tx ∧ pendingRequest waiting.blk ≠ none ∧
    failsAt 3 tx (answering [.ok [4], .ok [4], .ok [0], .error] waiting) = true ∧
    reasonOf tcfg 8 = some .nc ∧ failsAt 2 cleared (answering [.ok [8], .ok [8], .error] (op true)) = true ∧
    serving reading = true ∧ reading.cfg.ncPosition = .read ∧ failsAt 4 (cleared ++ positions) reading = true ∧
    serving drawing = true ∧ drawing.cfg.ncPosition = .either ∧ chipPlays cleared drawing = true ∧
    ncDraw (played cleared drawing) = true ∧ failsAt 1 positions (takeNcDraw (played cleared drawing)) = true := by
  decide

/-- P1, steps 1, 2, 4 and 5. -/
theorem witness_BringupReachesOperationalClean :
    [(0 : Byte), 0, 0].length = tcfg.configTable.length ∧
    chipPlays (tableEvents tcfg.configTable [0, 0, 0] ++ [.allocPortReq .deallocAll 0x7F#8] ++ evalEvents tcfg 0 0
        ++ (if bothLocked tcfg 0 0 then [.locked] ++ clearEvents tcfg .err 0 0 else []))
      { cfg := tcfg
        blk := { Block.launch .asserted with trace := [.resetLine .deasserted, .resetLine .asserted] }
        env := { Env.silent with replies := firstAnswers 0 } } = true := by decide

/-- T2. -/
theorem witness_RegisterWriteResult :
    let s := answering [.ok [0x9C]] resetting
    (s.blk.bringup = .resetting ∨ s.blk.bringup = .awaitingFirstInterrupt) ∧
    busReply (.write 0x12 0x34) s = some [0x9C] := by decide

/-- T4: the top address. -/
theorem witness_RegisterReadResult :
    let s := answering [.ok [0x42]] resetting
    (s.blk.bringup = .resetting ∨ s.blk.bringup = .awaitingFirstInterrupt) ∧ 1 ≤ (1 : Byte).toNat ∧
    (0xFF : Byte).toNat + (1 : Byte).toNat - 1 ≤ 0xFF ∧ busReply (.read 0xFF 1) s = some [0x42] := by decide

/-- T7 and T9: the whole mask. -/
theorem witness_ReadModifyWriteResults :
    let s := answering [.ok [0x07], .ok [0]] awaiting1
    (s.blk.bringup = .resetting ∨ s.blk.bringup = .awaitingFirstInterrupt) ∧
    chipPlays [.regRead 0x20 1#8 [0x07], .regWrite 0x20 (0x07 &&& ~~~(0xFF : Byte)) 0] s = true ∧
    chipPlays [.regRead 0x20 1#8 [0x07], .regWrite 0x20 (0x07 ||| 0xFF) 0] s = true := by decide

theorem witness_RegisterStimuliAreRefusedAfterBringup :
    isRegisterTransport (.rtRead 0xFF 1) = true ∧ (op true).blk.bringup ≠ .fatal ∧
    (op true).blk.bringup ≠ .resetting ∧ (op true).blk.bringup ≠ .awaitingFirstInterrupt := by decide

/-- T13 and T14, and the same for the other two stimuli. -/
theorem witness_FailedRegisterAccessIsFatal :
    let s := answering [.error] resetting
    let u := answering [.ok [0x07], .error] resetting
    (s.blk.bringup = .resetting ∨ s.blk.bringup = .awaitingFirstInterrupt) ∧
    busReply (.write 0x12 0x34) s = none ∧ burstInBounds 0xFF 1 = true ∧ busReply (.read 0xFF 1) s = none ∧
    busReply (.read 0x20 1#8) s = none ∧
    (u.blk.bringup = .resetting ∨ u.blk.bringup = .awaitingFirstInterrupt) ∧
    busReply (.read 0x20 1#8) u = some [0x07] ∧
    busReply (.write 0x20 (0x07 &&& ~~~(0x02 : Byte))) (played [.regRead 0x20 1#8 [0x07]] u) = none ∧
    busReply (.write 0x20 (0x07 ||| 0x02)) (played [.regRead 0x20 1#8 [0x07]] u) = none := by decide

theorem witness_RegisterAndPollFrame :
    isRegisterTransport (.rtWrite 0x12 0x34) = true ∧
    (∃ t, exec (.rtWrite 0x12 0x34) (answering [.ok [0]] resetting) = .next t) ∧
    ∃ t, exec .tickLockPoll (answering [.error] (op false)) = .next t := ⟨rfl, ⟨_, rfl⟩, ⟨_, rfl⟩⟩

/-- D12. -/
theorem witness_UnwatchedInterruptIsIgnored :
    resetting.blk.bringup ≠ .fatal ∧ resetting.blk.bringup ≠ .off ∧ resetting.blk.irqArmed = .none ∧
    BlockInv resetting.blk :=
  ⟨by decide, by decide, rfl, by constructor <;> simp [resetting, withBlock, Block.afterReset]⟩

/-- D8, and the status byte with every reason set. -/
theorem witness_ReceiveInterruptDeliversOneFrame :
    let s := answering [.ok [0x0F], .ok rxBuffer, .ok [0x0F], .ok [0], .ok [0], .ok [0]] (op true)
    serving s = true ∧ s.cfg.wellFormed = true ∧ holds s.cfg.matchRx 0x0F = true ∧
    chipPlays ([.regRead s.cfg.regStatus 1#8 [0x0F], .regRead s.cfg.regRxBuf 20#8 rxBuffer,
        .mostMessageRx (decodeFrame s.cfg rxBuffer)] ++ clearEvents s.cfg .rx 0x0F 0
      ++ [.regRead s.cfg.regRbe 1#8 [0], .regWrite s.cfg.regRbe (reenabled s.cfg 0) 0]) s = true := by decide

/-- K1. -/
theorem witness_ErrorInterruptLosesLock :
    let s := answering [.ok [0x02], .ok [0x10]] (op true)
    serving s = true ∧ holds s.cfg.matchRx 0x02 = false ∧ holds s.cfg.matchErr 0x02 = true ∧
    0x10 &&& s.cfg.mLockActive ≠ 0 ∧ s.cfg.isMaster = false ∧ s.blk.transceiverLocked = true ∧
    chipPlays [.regRead s.cfg.regStatus 1#8 [0x02], .regRead s.cfg.regFault 1#8 [0x10], .unlocked] s = true := by
  decide

/-- K4, K3 and K2: each of the three reasons alone. -/
theorem witness_TransientErrorIsOnlyCleared :
    let answers (f : Byte) : List BusReply := [.ok [0x02], .ok [f], .ok [0x02], .ok [0]]
    let events (P : Params) (f : Byte) : List Event :=
      [.regRead P.regStatus 1#8 [0x02], .regRead P.regFault 1#8 [f]] ++ clearEvents P .err 0x02 0
    let s := answering (answers 0xEF) (op true)
    let m := under (fun P => { P with isMaster := true }) (answering (answers 0x10) (op true))
    let u := answering (answers 0x10) (op false)
    holds tcfg.matchRx 0x02 = false ∧ holds tcfg.matchErr 0x02 = true ∧
    serving s = true ∧ 0xEF &&& s.cfg.mLockActive = 0 ∧ chipPlays (events s.cfg 0xEF) s = true ∧
    serving m = true ∧ m.cfg.isMaster = true ∧ chipPlays (events m.cfg 0x10) m = true ∧
    serving u = true ∧ u.blk.transceiverLocked = false ∧ chipPlays (events u.cfg 0x10) u = true := by decide

/-- D4. -/
theorem witness_TransmitInterruptWithoutRequest :
    let s := answering [.ok [0x04], .ok [0x04], .ok [0]] (op true)
    serving s = true ∧ holds s.cfg.matchRx 0x04 = false ∧ holds s.cfg.matchErr 0x04 = false ∧
    holds s.cfg.matchTx 0x04 = true ∧
    s.blk.awaitAlloc = false ∧ s.blk.awaitGetSource = false ∧ s.blk.awaitDealloc = false ∧
    chipPlays (.regRead s.cfg.regStatus 1#8 [0x04] :: clearEvents s.cfg .tx 0x04 0 ++ [.messageSent]) s = true := by
  decide

/-- `OP(true)` with the await flags given. -/
def awaitingFor (a g d : Bool) : State :=
  withBlock { (op true).blk with awaitAlloc := a, awaitGetSource := g, awaitDealloc := d, connectionLabel := some 7 }

/-- What the chip answers to a transmitted interrupt that reads the mailbox `mb`. -/
def txAnswers (mb : List Byte) : List BusReply := [.ok [0x04], .ok [0x04], .ok [0], .ok mb]

/-- Q7: another flag is set too. -/
theorem witness_TransmitInterruptResolvesAllocation :
    let s := answering (txAnswers mailbox) (awaitingFor true false true)
    serving s = true ∧ s.cfg.wellFormed = true ∧
    holds s.cfg.matchRx 0x04 = false ∧ holds s.cfg.matchErr 0x04 = false ∧ holds s.cfg.matchTx 0x04 = true ∧
    s.blk.awaitAlloc = true ∧
    chipPlays (.regRead s.cfg.regStatus 1#8 [0x04] :: clearEvents s.cfg .tx 0x04 0
      ++ [.regRead s.cfg.regMbox 20#8 mailbox, .allocResult granted, .messageSent]) s = true ∧
    allocDecode s.cfg (decodeFrame s.cfg mailbox).payload = granted := by decide

/-- Q8, and a deallocation answered with Grant. -/
theorem witness_TransmitInterruptResolvesOtherRequests :
    let s := answering (txAnswers mailbox) (awaitingFor false true true)
    let u := answering (txAnswers mailbox) (awaitingFor false false true)
    let cleared (P : Params) : List Event := .regRead P.regStatus 1#8 [0x04] :: clearEvents P .tx 0x04 0
    s.cfg.wellFormed = true ∧ holds s.cfg.matchRx 0x04 = false ∧ holds s.cfg.matchErr 0x04 = false ∧
    holds s.cfg.matchTx 0x04 = true ∧
    serving s = true ∧ s.blk.awaitAlloc = false ∧ s.blk.awaitGetSource = true ∧
    chipPlays (cleared s.cfg ++
      [.regRead s.cfg.regMbox 20#8 mailbox, .remoteSourceResult mailbox, .messageSent]) s = true ∧
    serving u = true ∧ u.blk.awaitAlloc = false ∧ u.blk.awaitGetSource = false ∧ u.blk.awaitDealloc = true ∧
    deallocAnswer u.cfg (decodeFrame u.cfg mailbox).payload = .grant ∧
    chipPlays (cleared u.cfg ++
      [.regRead u.cfg.regMbox 20#8 mailbox, .deallocResult { answer := .grant }, .messageSent]) u = true := by decide

/-- The chip's answers and the draw of a network-changed interrupt under a policy (D2, D3). -/
def ncState (policy : NcPosition) (draw : Bool) : State :=
  let s := under (fun P => { P with ncPosition := policy })
    (answering [.ok [0x08], .ok [0x08], .ok [0], .ok [0x02], .ok [0x05]] (op true))
  { s with env := { s.env with ncDraws := [draw] } }

/-- What the network-changed branch emits first, and what it emits when it reads the positions (D2, D3). -/
def ncEvents : List Event := .regRead 0xE0 1#8 [0x08] :: clearEvents tcfg .nc 0x08 0
def ncReadEvents : List Event := [.regRead 0xE6 1#8 [0x02], .regRead 0xE7 1#8 [0x05], .positionUpdate 0x02 0x05]

/-- The hypotheses that every policy shares. -/
theorem witness_NetworkChangedInterruptResult (policy : NcPosition) (draw : Bool) :
    let s := ncState policy draw
    serving s = true ∧ holds s.cfg.matchRx 0x08 = false ∧ holds s.cfg.matchErr 0x08 = false ∧
    holds s.cfg.matchTx 0x08 = false ∧ holds s.cfg.matchNc 0x08 = true ∧ chipPlays ncEvents s = true := by
  cases policy <;> cases draw <;> decide

/-- Each clause: no read, a read, a draw against reading, and a draw for reading. -/
theorem witness_NetworkChangedInterruptResult_clauses :
    (ncState .none true).cfg.ncPosition = .none ∧
    (ncState .read true).cfg.ncPosition = .read ∧ chipPlays (ncEvents ++ ncReadEvents) (ncState .read true) = true ∧
    (ncState .either false).cfg.ncPosition = .either ∧ ncDraw (played ncEvents (ncState .either false)) = false ∧
    (ncState .either true).cfg.ncPosition = .either ∧ ncDraw (played ncEvents (ncState .either true)) = true ∧
    chipPlays ncReadEvents (takeNcDraw (played ncEvents (ncState .either true))) = true := by decide

/-- D1. -/
theorem witness_UnmatchedStatusIsLogged :
    let s := answering [.ok [0x00]] (op true)
    serving s = true ∧ holds s.cfg.matchRx 0x00 = false ∧ holds s.cfg.matchErr 0x00 = false ∧
    holds s.cfg.matchTx 0x00 = false ∧ holds s.cfg.matchNc 0x00 = false ∧
    chipPlays [.regRead s.cfg.regStatus 1#8 [0x00], .log .unmatchedStatus] s = true := by decide

theorem witness_ReadModifyWriteTouchesOnlyMaskBits : 7 < 8 := by decide

/-- A steady interrupt, and the one the watch takes. -/
theorem witness_InterruptFrame :
    (∃ t, exec .irq (answering [.ok [0x00]] (op true)) = .next t) ∧
    (∃ t, exec .irq (answering (firstAnswers 0) awaiting1) = .next t) ∧
    (op true).blk.awaitAlloc = false ∧ (op true).blk.awaitGetSource = false ∧
    (op true).blk.irqArmed ≠ .oneShot ∧ (op true).blk.awaitDealloc = false := ⟨⟨_, rfl⟩, ⟨_, rfl⟩, by decide⟩

/-- M9: a session is active, and the payload would overlap it. -/
theorem witness_SendWhileUnlockedIsDropped :
    let s := withBlock { (op false).blk with mpSession := some session3 }
    s.blk.bringup ≠ .fatal ∧ s.blk.bringup ≠ .off ∧ (payload 13).length ≤ 4095 ∧
    s.blk.transceiverLocked = false := by decide

/-- F4 and F6: 12 bytes, during a session. -/
theorem witness_SingleFrameSend :
    let s := withBlock { (op true).blk with mpSession := some session3 }
    s.blk.bringup ≠ .fatal ∧ s.blk.bringup ≠ .off ∧ s.blk.transceiverLocked = true ∧ (payload 12).length ≤ 12 := by
  decide

/-- M1 and M7: 13 bytes and 4095. -/
theorem witness_MultiPartSendStartsSession :
    (op true).blk.bringup ≠ .fatal ∧ (op true).blk.bringup ≠ .off ∧ (op true).blk.transceiverLocked = true ∧
    (op true).blk.mpSession = none ∧ 13 ≤ (payload 13).length ∧ (payload 13).length ≤ 4095 ∧
    13 ≤ (payload 4095).length ∧ (payload 4095).length ≤ 4095 := by
  simp only [payload, List.length_map, List.length_range]; decide

/-- M8. -/
theorem witness_OverlappingMultiPartSendFaults :
    let s := withBlock { (op true).blk with mpSession := some session3 }
    s.blk.bringup ≠ .fatal ∧ s.blk.bringup ≠ .off ∧ s.blk.transceiverLocked = true ∧
    s.blk.mpSession = some session3 ∧ 13 ≤ (payload 13).length ∧ (payload 13).length ≤ 4095 := by decide

/-- M5 at its two continuations: 11 bytes left, and more than 11. -/
theorem witness_ContinuationSendsOneChunk :
    let last : Session := { hdr := hdr, remaining := (payload 33).drop 22, seq := 2 }
    (op true).blk.mpSession = none ∧
    (withBlock { (op true).blk with mpSession := some session3 }).blk.mpSession = some session3 ∧
    (op true).blk.transceiverLocked = true ∧ last.remaining.length ≤ 11 ∧ 11 < session3.remaining.length := by decide

/-- M10 to M12, and the policy that draws. -/
theorem witness_GatedContinuationFollowsPolicy :
    let s := withBlock { (op false).blk with mpSession := some session3 }
    s.blk.mpSession = some session3 ∧ s.blk.transceiverLocked = false ∧ s.cfg.mpGatePolicy = .fixed .advance ∧
    (under (fun P => { P with mpGatePolicy := .fixed .hold }) s).cfg.mpGatePolicy = .fixed .hold ∧
    (under (fun P => { P with mpGatePolicy := .fixed .abort }) s).cfg.mpGatePolicy = .fixed .abort ∧
    (under (fun P => { P with mpGatePolicy := .either }) s).cfg.mpGatePolicy = .either := by decide

/-- M1. -/
theorem witness_MultiPartPayloadIsPartitioned :
    (op true).blk.bringup ≠ .off ∧ (op true).blk.transceiverLocked = true ∧ (op true).blk.mpSession = none ∧
    13 ≤ (payload 13).length ∧ (payload 13).length ≤ 4095 ∧
    ∃ t, exec (.send { hdr := hdr, payload := payload 13 }) (op true) = .next t :=
  ⟨by decide, rfl, rfl, by decide, by decide, _, rfl⟩

theorem witness_OutboundSlotLayout : (3 : Nibble).toNat ≤ 3 ∧ (payload 12).length ≤ 12 := by decide

theorem witness_InboundBufferFields : (List.replicate 12 (0xEE : Byte)).length = 12 := by decide

/-- T1 and T2 of part 2.5, and a full slot. -/
theorem witness_FrameRoundTrip :
    (payload 12).length ≤ 12 ∧ (payload 12).length = 12 ∧ holds tcfg.isExtended tcfg.txReservedByte = false := by
  decide

/-- K7 and K6, and V4 under the other polarity. -/
theorem witness_LockPollResult :
    let s := answering [.ok [0], .ok [0], .ok [0x02], .ok [0]] (op false)
    let u := answering [.ok [1], .ok [0]] (op false)
    let m := under (fun P => { P with lockPolarity := .lockedWhenSet })
      (answering [.ok [1], .ok [2], .ok [0x02], .ok [0]] (op false))
    s.blk.bringup ≠ .fatal ∧ s.blk.bringup ≠ .off ∧ s.blk.lockPollActive = true ∧
    s.cfg.lockPolarity = .lockedWhenClear ∧ 0 &&& s.cfg.mPll = 0 ∧ 0 &&& s.cfg.mFreq = 0 ∧
    chipPlays (evalEvents s.cfg 0 0 ++ [.locked] ++ clearEvents s.cfg .err 0x02 0) s = true ∧
    u.cfg.lockPolarity = .lockedWhenClear ∧ 1 &&& u.cfg.mPll ≠ 0 ∧ chipPlays (evalEvents u.cfg 1 0) u = true ∧
    m.blk.lockPollActive = true ∧ m.cfg.lockPolarity = .lockedWhenSet ∧ 1 &&& m.cfg.mPll = m.cfg.mPll ∧
    2 &&& m.cfg.mFreq = m.cfg.mFreq ∧
    chipPlays (evalEvents m.cfg 1 2 ++ [.locked] ++ clearEvents m.cfg .err 0x02 0) m = true := by decide

theorem witness_OnlyTheMonitorAndResetMoveTheLock :
    Instr.tickReq .alloc ≠ .irq ∧ Instr.tickReq .alloc ≠ .tickLockPoll ∧ Instr.tickReq .alloc ≠ .reset ∧
    ∃ t, exec (.tickReq .alloc) (op true) = .next t := ⟨by decide, by decide, by decide, _, rfl⟩

/-- Q4, Q3, and an arm with a label and without one. -/
theorem witness_RequestArmSetsFlagAndTimeout :
    awaiting1.blk.bringup ≠ .fatal ∧ awaiting1.blk.bringup ≠ .operational ∧
    (op true).blk.bringup ≠ .fatal ∧ (op true).blk.bringup = .operational ∧ (op true).blk.connectionLabel = none ∧
    (ReqKind.alloc = .dealloc → (op true).blk.connectionLabel ≠ none) ∧
    (awaitingFor false false false).blk.bringup = .operational ∧
    (awaitingFor false false false).blk.connectionLabel ≠ none := by decide

/-- The launch, Q5, and one and two timeouts (Q2). -/
theorem witness_RequestTimeoutClearsFlag :
    let s := withBlock { (op true).blk with reqTimers := { alloc := 1, getSource := 0, dealloc := 2 } }
    launched.blk.bringup ≠ .fatal ∧ launched.blk.bringup = .off ∧ s.blk.bringup ≠ .fatal ∧ s.blk.bringup ≠ .off ∧
    reqCount s.blk.reqTimers .getSource = 0 ∧ 0 < reqCount s.blk.reqTimers .alloc ∧
    0 < reqCount s.blk.reqTimers .dealloc := by decide

/-- Q6, the interrupt. -/
theorem witness_LateAllocationResponseIsIgnored :
    let s := answering [.ok [0x04], .ok [0x04], .ok [0]] (op true)
    s.blk.awaitAlloc = false ∧ ∃ t, exec .irq s = .next t := ⟨rfl, _, rfl⟩

/-- The shortest payload, and the answer codes of every clause. -/
theorem witness_AllocationResultFields (c : Byte) :
    let p : List Byte := c :: List.replicate 10 7
    11 ≤ p.length ∧ p[tcfg.allocLayout.answer.val]? = some c := ⟨by simp, rfl⟩

/-- A code the default map lists last and one it does not list, in the shortest payload, and a map whose second entry
for a code does not count. -/
theorem witness_DeallocationResultAnswer :
    let p : Byte → List Byte := fun c => c :: List.replicate 10 7
    let before : DeallocCodeMap := [(1, .grant), (2, .busy), (3, .wrong)]
    11 ≤ (p 4).length ∧ (p 4)[tcfg.deallocAnswerIndex.val]? = some 4 ∧
    tcfg.deallocCodeMap = before ++ (4, .wrongTarget) :: [] ∧ (∀ entry ∈ before, entry.1 ≠ 4) ∧
    (p 5)[tcfg.deallocAnswerIndex.val]? = some 5 ∧ (∀ entry ∈ tcfg.deallocCodeMap, entry.1 ≠ 5) ∧
    tcfg.deallocCodeMap = defaultDeallocCodes ∧
    [((9 : Byte), DeallocAnswer.grant), (9, .busy)] = [] ++ (9, .grant) :: [(9, .busy)] := by decide

theorem witness_PositionGettersReturnTheCache :
    launched.blk.bringup ≠ .fatal ∧ launched.blk.bringup = .off ∧ (op true).blk.bringup ≠ .fatal ∧
    (op true).blk.bringup ≠ .off := by decide

/-- A locked block whose trace says so, with one stimulus to present. -/
def running : State :=
  presenting [0x50] (withBlock { (op true).blk with trace := [.resetLine .deasserted, .locked] })

theorem witness_EveryStepKeepsTheBlockInvariants :
    BlockInv running.blk ∧ ∃ t, step running = .next t :=
  ⟨by constructor <;> simp [running, presenting, withBlock, op, Block.launch], _, rfl⟩

theorem witness_LockEventsAlternateBetweenResets :
    BlockInv running.blk ∧ LockHistoryInv running ∧ ∃ t, step running = .next t :=
  ⟨witness_EveryStepKeepsTheBlockInvariants.1, ⟨true, rfl, fun _ => rfl⟩, _, rfl⟩

theorem witness_EveryStepKeepsTheTraceWellFormed :
    BlockInv running.blk ∧ TraceWf running ∧ ∃ t, step running = .next t :=
  ⟨witness_EveryStepKeepsTheBlockInvariants.1, rfl, _, rfl⟩

/-- After one step of a launch, a RESET. -/
theorem witness_ReachableStatesMeetTheInvariants : ∃ s, Reachable s ∧ s.blk.bringup = .resetting :=
  ⟨_, .step (.launch tcfg .asserted { Env.silent with program := [0x00] }) rfl, rfl⟩

/-- The marks that stay: a refusal, and a fault. -/
theorem witness_StepsOnlyAddToTheRecord :
    let s := presenting [0x10] (withBlock (markRefused .state (op true).blk))
    let u := presenting [0x50] (withBlock { (op true).blk with fault := some .transport })
    s.blk.refused = true ∧ (∃ t, step s = .next t) ∧ u.blk.fault ≠ none ∧ ∃ t, step u = .next t :=
  ⟨rfl, ⟨_, rfl⟩, by decide, _, rfl⟩

/-- M8: the one fault a stimulus without a register access raises. -/
theorem witness_BusFreeStimuliTouchNoRegister :
    isBusFree (.send { hdr := hdr, payload := payload 13 }) = true ∧
    ∃ t, exec (.send { hdr := hdr, payload := payload 13 })
      (withBlock { (op true).blk with mpSession := some session3 }) = .next t := ⟨rfl, _, rfl⟩

end Sys2Proof.Tests
end

section
/-! Byte predicates (00_scope.md R8): what `holds` says for the default form and for a table. -/

namespace Sys2Proof.Machine

theorem holds_anySet (mask s : Byte) : holds (.anySet mask) s = true ↔ s &&& mask ≠ 0 := by
  simp only [holds, bne_iff_ne]

/-- A word is not 0 exactly where one of its bits is set. -/
theorem ne_zero_iff_exists_getLsbD {w : Nat} (x : BitVec w) : x ≠ 0 ↔ ∃ j, j < w ∧ x.getLsbD j = true := by
  rw [ne_eq, BitVec.eq_of_getLsbD_eq_iff]
  simp only [BitVec.ofNat_eq_ofNat, BitVec.getLsbD_zero, not_forall, Bool.not_eq_false, exists_prop]

/-- The default form bit by bit: some bit is set in the byte and in the mask. -/
theorem holds_anySet_iff_exists_bit (mask s : Byte) :
    holds (.anySet mask) s = true ↔ ∃ j, j < 8 ∧ mask.getLsbD j = true ∧ s.getLsbD j = true := by
  rw [holds_anySet, ne_zero_iff_exists_getLsbD]
  simp only [BitVec.getLsbD_and, Bool.and_eq_true, and_comm (a := s.getLsbD _ = true)]

/-- The table of a predicate: bit `s` is set where the predicate holds of `s`. -/
def tableOf (f : Byte → Bool) : BitVec 256 := BitVec.ofFnLE fun i => f (BitVec.ofFin i)

@[simp] theorem holds_table_tableOf (f : Byte → Bool) (s : Byte) : holds (.table (tableOf f)) s = f s := by
  have hs : s.toNat < 256 := s.isLt
  simp only [holds, tableOf, BitVec.getLsbD_ofFnLE, dif_pos hs]
  rfl

/-- Settles O33: the default form is the bitwise AND read bit by bit, and `tableOf` is the table of a predicate. -/
theorem bytePredicateMeaning : Obligations.BytePredicateMeaning :=
  ⟨fun m s => ⟨holds_anySet m s, holds_anySet_iff_exists_bit m s⟩, fun f => ⟨tableOf f, holds_table_tableOf f⟩⟩

end Sys2Proof.Machine
end

section
/-! The invariants of the block (10_state.md R48): the launch and the reset state meet them, every effect keeps them,
and so does every step. Two stretches are followed access by access, because what ends them is allowed only in one
bring-up state: the configuration writes, and a lock evaluation in Operational. -/

namespace Sys2Proof.Machine

/-! ### The effects that keep the invariants -/

/-- The invariants do not speak of the reset line, the requests and their results, the positions and the trace. -/
theorem BlockInv.frame {b c : Block} (h : BlockInv b)
    (hc : c = { b with
      resetLine := c.resetLine, awaitAlloc := c.awaitAlloc, awaitGetSource := c.awaitGetSource,
      awaitDealloc := c.awaitDealloc, reqTimers := c.reqTimers, connectionLabel := c.connectionLabel,
      allocResult := c.allocResult, nodePosition := c.nodePosition, maxPosition := c.maxPosition,
      trace := c.trace }) : BlockInv c := by
  rw [hc]
  exact { h with }

/-- A fault leaves the three invariants that say something of Fatal. -/
theorem blockInv_markFault {b : Block} (c : FaultCode)
    (hPoll : b.lockPollActive = true → b.transceiverLocked = false)
    (hSession : ∀ ses, b.mpSession = some ses → ses.remaining ≠ [])
    (hCode : b.refused = true ↔ b.refusedCode ≠ none) : BlockInv (markFault c b) where
  session_operational hf := absurd rfl hf
  fatal_iff_fault := by simp [markFault]
  steady_iff_operational hf := absurd rfl hf
  oneShot_iff_awaiting hf := absurd rfl hf
  settle_resetting hf := absurd rfl hf
  poll_unlocked := hPoll
  session_nonempty := hSession
  never_configuring hc := nomatch hc
  locked_operational hf := absurd rfl hf
  poll_operational hf := absurd rfl hf
  refused_iff_code := hCode

theorem BlockInv.markFault {b : Block} (h : BlockInv b) (c : FaultCode) : BlockInv (markFault c b) :=
  blockInv_markFault c h.poll_unlocked h.session_nonempty h.refused_iff_code

/-- The mark is set with a code: the first one, or this one if there is none (R33). -/
theorem BlockInv.markRefused {b : Block} (h : BlockInv b) (c : RefusalCode) : BlockInv (markRefused c b) :=
  { h with
    refused_iff_code := by
      cases hr : b.refused with
      | false => simp [Machine.markRefused, hr]
      | true => simpa [Machine.markRefused, hr] using h.refused_iff_code }

/-- A session that goes on has something left, and one before it that says the block is in Operational. -/
theorem BlockInv.setSession {s : State} {x : Option Session} (h : BlockInv s.blk)
    (hOper : s.blk.bringup ≠ .fatal → x ≠ none → s.blk.bringup = .operational)
    (hRest : ∀ ses, x = some ses → ses.remaining ≠ []) : BlockInv (setSession x s).blk :=
  { h with session_operational := hOper, session_nonempty := hRest }

theorem BlockInv.setAwait {s : State} (h : BlockInv s.blk) (k : ReqKind) (v : Bool) :
    BlockInv (setAwait k v s).blk := h.frame (by cases k <;> rfl)

/-- The result of a request writes one event, the label and the allocation result (45_request_tracking.md R222). -/
theorem resolveWith_eq_emit (k : ReqKind) (mb : List Byte) (s : State) :
    ∃ e label result, resolveWith k mb s =
      emit e (onBlock (fun b => { b with connectionLabel := label, allocResult := result }) s) := by
  cases k with
  | alloc => exact ⟨_, some _, some _, rfl⟩
  | getSource => exact ⟨_, s.blk.connectionLabel, s.blk.allocResult, rfl⟩
  | dealloc =>
    simp only [resolveWith, recordDealloc_eq]
    exact ⟨_, _, s.blk.allocResult, rfl⟩

theorem BlockInv.resolveWith {s : State} (h : BlockInv s.blk) (k : ReqKind) (mb : List Byte) :
    BlockInv (resolveWith k mb s).blk := by
  obtain ⟨e, label, result, he⟩ := resolveWith_eq_emit k mb s
  rw [he]
  exact h.frame rfl

/-- A loss needs a lock, which only Operational has (44_lock_monitor.md R203). -/
theorem BlockInv.lockLoss {s : State} (h : BlockInv s.blk) (hl : s.blk.transceiverLocked = true) :
    BlockInv (lockLoss s).blk :=
  { h with
    poll_unlocked := fun _ => rfl
    locked_operational := fun hf _ => h.locked_operational hf hl
    poll_operational := fun hf _ => h.locked_operational hf hl }

/-- Outside Fatal there is no fault yet (60_exceptions.md R240). -/
theorem BlockInv.fault_eq_none {b : Block} (h : BlockInv b) (hf : b.bringup ≠ .fatal) : b.fault = none :=
  not_not.mp (mt h.fatal_iff_fault.mpr hf)

/-- During bring-up there is no session, no lock and no lock poll. -/
theorem BlockInv.idle {b : Block} (h : BlockInv b) (hf : b.bringup ≠ .fatal) (ho : b.bringup ≠ .operational) :
    b.mpSession = none ∧ b.transceiverLocked = false ∧ b.lockPollActive = false :=
  ⟨not_not.mp (mt (h.session_operational hf) ho), eq_false_of_ne_true (mt (h.locked_operational hf) ho),
    eq_false_of_ne_true (mt (h.poll_operational hf) ho)⟩

/-- RESET leaves the fault, and outside Fatal there is none (70_reset_and_hazards.md R270). -/
theorem BlockInv.resetBlock {s : State} (h : BlockInv s.blk) (hf : s.blk.bringup ≠ .fatal) :
    BlockInv (resetBlock s).blk := by
  have hFault := h.fault_eq_none hf
  constructor <;> simp [Machine.resetBlock, hFault, h.refused_iff_code]

/-- The settle timer runs only in Resetting, so nothing of Operational is there when it expires (R271). -/
theorem BlockInv.settled {s : State} (h : BlockInv s.blk) (hf : s.blk.bringup ≠ .fatal)
    (ha : s.blk.settleArmed = true) :
    BlockInv { s.blk with settleArmed := false, irqArmed := .oneShot, bringup := .awaitingFirstInterrupt } := by
  have hReset : s.blk.bringup = .resetting := h.settle_resetting hf ha
  obtain ⟨hSession, hLocked, hPoll⟩ := h.idle hf (by simp [hReset])
  have hFault := h.fault_eq_none hf
  constructor <;> simp [hSession, hLocked, hPoll, hFault, h.refused_iff_code]

/-- Every effect but a relock and the mode changes of the first interrupt keeps the invariants of the block. -/
theorem stepKeeps_blockInv : StepKeeps fun s => BlockInv s.blk where
  fault _ c h := h.markFault c
  refused _ c h := h.markRefused c
  reply _ h := h
  event _ _ _ h := h.frame rfl
  ncDrawn _ h := h
  gateDrawn _ h := h
  session _ x hx h := by
    refine h.setSession (fun hf hn => ?_) fun ses hs => (hx ses hs).1
    obtain ⟨ses, rfl⟩ := Option.ne_none_iff_exists'.mp hn
    exact h.session_operational hf (hx ses rfl).2
  positions _ _ _ h := h.frame rfl
  lost _ hl h := h.1.lockLoss hl
  resolved _ k mb _ _ h := (h.1.setAwait k false).resolveWith k mb
  reset _ h := h.1.resetBlock h.2
  settled _ ha h := (h.1.settled h.2 ha).frame rfl
  expired _ k h := h.1.frame (by cases k <;> rfl)
  armed _ k h := h.1.frame (by cases k <;> rfl)
  started _ _ hr hl h := h.1.setSession (fun hf _ => h.1.locked_operational hf hl) (by rintro _ ⟨⟩; exact hr)

/-! ### The lock evaluation in Operational -/

/-- The block while the lock registers are evaluated: in Operational, and not locked. -/
structure EvaluatingLock (s : State) : Prop where
  inv : BlockInv s.blk
  operational : s.blk.bringup = .operational
  unlocked : s.blk.transceiverLocked = false

namespace EvaluatingLock

theorem busClosed : BusClosed EvaluatingLock fun s => BlockInv s.blk where
  fault _ h := h.inv.markFault _
  read _ _ _ _ _ _ h := ⟨h.inv.frame rfl, h.operational, h.unlocked⟩
  write _ _ _ _ h := ⟨h.inv.frame rfl, h.operational, h.unlocked⟩

/-- The flag is set and the poll ends. -/
theorem locked {s : State} (h : EvaluatingLock s) : BlockInv (disarm .lockPoll (setLocked true s)).blk :=
  { h.inv with
    poll_unlocked := by simp
    locked_operational := fun _ _ => h.operational
    poll_operational := by simp }

/-- A relock clears the error reason between the event and the flag (44_lock_monitor.md R205). -/
theorem relock {s : State} (h : EvaluatingLock s) : BlockInv (relock s).blk :=
  busClosed.clearReason (k := fun s => disarm .lockPoll (setLocked true s)) (fun _ hu => hu.locked)
    (emit .locked s) ⟨h.inv.frame rfl, h.operational, h.unlocked⟩

theorem armLockPoll {s : State} (h : EvaluatingLock s) : BlockInv (arm .lockPoll s).blk :=
  { h.inv with
    poll_unlocked := fun _ => h.unlocked
    poll_operational := fun _ _ => h.operational }

/-- The lock check at the end of bring-up (R207). -/
theorem bringupLockCheck {s : State} (h : EvaluatingLock s) : BlockInv (bringupLockCheck s).blk := by
  refine busClosed.lockEval (fun _ u hu => ?_) s h
  split
  · exact hu.relock
  · split
    · exact hu.armLockPoll
    · exact hu.inv

end EvaluatingLock

/-- The poll runs in Operational while there is no lock, so a lock poll is such an evaluation (R206). -/
theorem BlockInv.tickLockPoll {s : State} (h : BlockInv s.blk) (hf : s.blk.bringup ≠ .fatal) :
    BlockInv (tickLockPoll s).blk := by
  unfold Machine.tickLockPoll
  split
  · exact h.markRefused _
  · split
    · exact h.markRefused _
    · next hn =>
      have hp : s.blk.lockPollActive = true := by simpa using hn
      refine EvaluatingLock.busClosed.lockEval (fun _ u hu => ?_) s
        ⟨h, h.poll_operational hf hp, h.poll_unlocked hp⟩
      split
      · exact hu.relock
      · exact hu.inv

/-! ### The first interrupt -/

/-- The block while the configuration table is written (70_reset_and_hazards.md R272): it would meet the invariants with
the two mode changes that end Configuring, and it is not locked. -/
structure WritingTable (s : State) : Prop where
  inv : BlockInv { s.blk with irqArmed := .steadyState, bringup := .operational }
  unlocked : s.blk.transceiverLocked = false

namespace WritingTable

theorem busClosed : BusClosed WritingTable fun s => BlockInv s.blk where
  fault _ h := blockInv_markFault _ h.inv.poll_unlocked h.inv.session_nonempty h.inv.refused_iff_code
  read _ _ _ _ _ _ h := ⟨h.inv.frame rfl, h.unlocked⟩
  write _ _ _ _ h := ⟨h.inv.frame rfl, h.unlocked⟩

end WritingTable

/-- The watch is armed only in AwaitingFirstInterrupt, where the settle timer has expired and nothing of Operational is
there. -/
theorem BlockInv.writingTable {s : State} (h : BlockInv s.blk) (hf : s.blk.bringup ≠ .fatal)
    (ha : s.blk.irqArmed = .oneShot) :
    WritingTable (onBlock (fun b => { b with irqArmed := .none, bringup := .configuring }) s) := by
  have hAwait : s.blk.bringup = .awaitingFirstInterrupt := (h.oneShot_iff_awaiting hf).mp ha
  obtain ⟨hSession, hLocked, hPoll⟩ := h.idle hf (by simp [hAwait])
  have hSettle : s.blk.settleArmed = false :=
    eq_false_of_ne_true fun hs => by simpa [hAwait] using h.settle_resetting hf hs
  have hFault := h.fault_eq_none hf
  refine ⟨?_, hLocked⟩
  constructor <;> simp [hSession, hPoll, hSettle, hFault, h.refused_iff_code]

/-- The first interrupt ends in Operational or in Fatal (R272 to R274). -/
theorem BlockInv.firstInterrupt {s : State} (h : BlockInv s.blk) (hf : s.blk.bringup ≠ .fatal)
    (ha : s.blk.irqArmed = .oneShot) : BlockInv (firstInterrupt s).blk := by
  refine WritingTable.busClosed.writeTable (fun u hu => ?_) _ _ (h.writingTable hf ha)
  exact EvaluatingLock.bringupLockCheck ⟨hu.inv.frame rfl, rfl, hu.unlocked⟩

/-! ### Every step -/

/-- Every stimulus keeps the invariants of the block. -/
theorem BlockInv.exec {i : Instr} {s t : State} (h : BlockInv s.blk) (hf : s.blk.bringup ≠ .fatal)
    (he : exec i s = .next t) : BlockInv t.blk := by
  by_cases hi : i = .tickLockPoll
  · subst hi
    obtain ⟨-, rfl⟩ := unlessFatal_next he
    exact h.tickLockPoll hf
  · exact stepKeeps_blockInv.exec (fun _ _ _ hp _ => absurd hp hi) (fun _ ha => h.firstInterrupt hf ha) h he

/-- Settles O55, from what the stimuli keep and a decode refusal marks. -/
theorem everyStepKeepsTheBlockInvariants : Obligations.EveryStepKeepsTheBlockInvariants := by
  intro s t h hs
  obtain ⟨hf, -, ⟨i, rest, -, he⟩ | ⟨c, -, rfl⟩⟩ := step_cases hs
  · exact BlockInv.exec (s := present rest s) h hf he
  · exact h.markRefused c

/-! ### The reachable states, and the reset state -/

theorem blockInv_launch (line : ResetLevel) : BlockInv (Block.launch line) := by
  constructor <;> simp [Block.launch]

/-- The invariants of the block hold in every state a run can reach. -/
theorem Reachable.blockInv {s : State} (h : Reachable s) : BlockInv s.blk := by
  induction h with
  | launch P line env => exact blockInv_launch line
  | step _ hs ih => exact everyStepKeepsTheBlockInvariants _ _ ih hs

/-- Settles O56: the clauses of R48 among the invariants of the block. -/
theorem reachableStatesMeetTheInvariants : Obligations.ReachableStatesMeetTheInvariants := by
  intro s hs
  have h := hs.blockInv
  exact ⟨fun hf => ⟨h.session_operational hf, h.steady_iff_operational hf, h.oneShot_iff_awaiting hf,
      h.settle_resetting hf⟩,
    h.fatal_iff_fault, h.poll_unlocked, fun ses he => List.length_pos_of_ne_nil (h.session_nonempty ses he)⟩

/-- Settles O11: RESET writes every field of the launch state that R47 lists. -/
theorem resetStateIsLaunchThenReset : Obligations.ResetStateIsLaunchThenReset := by
  intro line
  exact unlessFatal_live (s := State.launch Config.params line) Bringup.noConfusion

/-- Settles O54: the invariants of the block come from the launch state by O11 and O55; the trace is one event. -/
theorem resetMeetsTheInvariants : Obligations.ResetMeetsTheInvariants :=
  ⟨(blockInv_launch .asserted).exec Bringup.noConfusion (resetStateIsLaunchThenReset .asserted),
    rfl, false, rfl, fun _ => rfl⟩

end Sys2Proof.Machine
end

section
/-! What a step leaves as it is: the record of faults, refusals and events, the lock state, and in Off the whole block
but the refused mark. -/

namespace Sys2Proof.Machine

/-! ### The record -/

/-- `t` keeps the record of `s`: the parameters, a fault, the refused mark with its first code, and every event. -/
structure RecordKept (s t : State) : Prop where
  cfg : t.cfg = s.cfg
  fault : s.blk.fault ≠ none → t.blk.fault ≠ none
  refused : s.blk.refused = true → t.blk.refused = true ∧ t.blk.refusedCode = s.blk.refusedCode
  trace : s.blk.trace <+: t.blk.trace

namespace RecordKept

variable {s t : State}

theorem refl (s : State) : RecordKept s s := ⟨rfl, id, fun h => ⟨h, rfl⟩, List.prefix_rfl⟩

theorem emit (h : RecordKept s t) (e : Event) : RecordKept s (emit e t) :=
  { h with trace := h.trace.trans (List.prefix_append ..) }

theorem raiseFault (h : RecordKept s t) (c : FaultCode) : RecordKept s (raiseFault c t) :=
  { h with fault := fun _ => Option.some_ne_none c }

/-- A second refusal leaves the first code (60_exceptions.md R242). -/
theorem refuse (h : RecordKept s t) (c : RefusalCode) : RecordKept s (refuse c t) :=
  { h with
    refused := fun hr => by
      obtain ⟨ht, hc⟩ := h.refused hr
      simp [ht, hc] }

theorem setAwait (h : RecordKept s t) (k : ReqKind) (v : Bool) : RecordKept s (setAwait k v t) := by
  cases k <;> exact { h with }

theorem resolveWith (h : RecordKept s t) (k : ReqKind) (mb : List Byte) : RecordKept s (resolveWith k mb t) := by
  obtain ⟨e, label, result, he⟩ := resolveWith_eq_emit k mb t
  rw [he]
  exact { h.emit e with }

end RecordKept

/-- No effect of a stimulus takes anything from the record. -/
theorem stepKeeps_record (s : State) : StepKeeps (RecordKept s) where
  fault _ c h := h.raiseFault c
  refused _ c h := h.refuse c
  reply _ h := { h with }
  event _ e _ h := h.emit e
  ncDrawn _ h := { h with }
  gateDrawn _ h := { h with }
  session _ _ _ h := { h with }
  positions _ _ _ h := { h with }
  lost _ _ h := { h.1.emit .unlocked with }
  resolved _ k mb _ _ h := (h.1.setAwait k false).resolveWith k mb
  reset _ h := { h.1.emit (.resetLine .deasserted) with }
  settled _ _ h := { h.1.emit (.resetLine .asserted) with }
  expired t k h := RecordKept.setAwait (t := expireReq k t) { h.1 with } k false
  armed _ k h := { h.1.setAwait k true with }
  started _ _ _ _ h := { h.1 with }

theorem RecordKept.relock {s t : State} (h : Live (RecordKept s) t) : RecordKept s (relock t) :=
  (stepKeeps_record s).bus.clearReason (k := fun t => disarm .lockPoll (setLocked true t))
    (fun _ hu => { hu.1 with }) _ ⟨h.1.emit .locked, h.2⟩

theorem RecordKept.firstInterrupt (s : State) : RecordKept s (firstInterrupt s) :=
  (stepKeeps_record s).firstInterrupt { RecordKept.refl s with } (fun _ h => { h.1 with })
    (fun _ _ h => RecordKept.relock h) (fun _ _ h => { h.1 with })

/-- Every stimulus keeps the record. -/
theorem RecordKept.exec {i : Instr} {s t : State} (h : exec i s = .next t) : RecordKept s t :=
  (stepKeeps_record s).exec (fun _ hu _ _ _ => RecordKept.relock hu) (fun _ _ => RecordKept.firstInterrupt s)
    (RecordKept.refl s) h

/-- Settles O59: a step is a stimulus, or the mark of a decode refusal. -/
theorem stepsOnlyAddToTheRecord : Obligations.StepsOnlyAddToTheRecord := by
  intro s t hs
  have h : RecordKept s t := by
    obtain ⟨-, -, ⟨i, rest, -, he⟩ | ⟨c, -, rfl⟩⟩ := step_cases hs
    · exact { RecordKept.exec he with }
    · exact { (RecordKept.refl s).refuse c with }
  exact ⟨h.cfg, h.fault, h.refused, h.trace⟩

/-! ### The lock state -/

/-- `t` has the lock flag and the lock poll of `s`. -/
def LockKept (s t : State) : Prop :=
  t.blk.transceiverLocked = s.blk.transceiverLocked ∧ t.blk.lockPollActive = s.blk.lockPollActive

theorem LockKept.refl (s : State) : LockKept s s := ⟨rfl, rfl⟩

/-- No register access moves them. -/
theorem LockKept.busClosed (s : State) : BusClosed (LockKept s) (LockKept s) where
  fault _ h := h
  read _ _ _ _ _ _ h := h
  write _ _ _ _ h := h

/-- To show `Q` of a register stimulus, show it of the refusal and of the access (41_register_transport.md R115). -/
theorem hostAdmitRT_rule {Q : State → Prop} {k : State → State} {s : State} (hRefused : Q (refuse .state s))
    (hk : Q (k s)) : Q (hostAdmitRT k s) := by
  unfold hostAdmitRT
  split
  · exact hk
  · exact hRefused

theorem LockKept.rtWrite (a v : Byte) (s : State) : LockKept s (rtWrite a v s) :=
  hostAdmitRT_rule (LockKept.refl s)
    ((LockKept.busClosed s).memWrite (k := fun rx => emit (.hostReturn (.byte rx))) (fun _ _ hu => hu) s
      (LockKept.refl s))

theorem LockKept.rtRead (a n : Byte) (s : State) : LockKept s (rtRead a n s) := by
  unfold Machine.rtRead
  split
  · exact hostAdmitRT_rule (LockKept.refl s)
      (memRead_rule (LockKept.refl s) (LockKept.refl s) fun _ _ _ => LockKept.refl s)
  · exact LockKept.refl s

theorem LockKept.sendRequest (req : TxRequest) (s : State) : LockKept s (sendRequest req s) := by
  unfold Machine.sendRequest startMultiPart
  split_ifs
  · exact LockKept.refl s
  · exact LockKept.refl s
  · exact LockKept.refl s
  · exact LockKept.refl s
  · split
    · exact LockKept.refl s
    · exact LockKept.refl s

theorem LockKept.tickSettle (s : State) : LockKept s (tickSettle s) := by
  unfold Machine.tickSettle
  split_ifs <;> exact LockKept.refl s

theorem LockKept.tickReq (k : ReqKind) (s : State) : LockKept s (tickReq k s) := by
  unfold Machine.tickReq
  split_ifs
  · exact LockKept.refl s
  · exact LockKept.refl s
  · cases k <;> exact LockKept.refl s

theorem LockKept.reqArm (k : ReqKind) (s : State) : LockKept s (reqArm k s) := by
  unfold Machine.reqArm
  split_ifs
  · exact LockKept.refl s
  · exact LockKept.refl s
  · cases k <;> exact LockKept.refl s

theorem LockKept.getNodePos (s : State) : LockKept s (getNodePos s) := by
  unfold Machine.getNodePos
  split_ifs <;> exact LockKept.refl s

theorem LockKept.getMaxPos (s : State) : LockKept s (getMaxPos s) := by
  unfold Machine.getMaxPos
  split_ifs <;> exact LockKept.refl s

/-- To show `Q` of the next state an instruction answers, show it of the state its meaning computes. -/
theorem unlessFatal_rule {Q : State → Prop} {f : State → State} {s t : State} (h : unlessFatal f s = .next t)
    (hQ : Q (f s)) : Q t := by
  obtain ⟨-, rfl⟩ := unlessFatal_next h
  exact hQ

/-- Settles O47, stimulus by stimulus. -/
theorem onlyTheMonitorAndResetMoveTheLock : Obligations.OnlyTheMonitorAndResetMoveTheLock := by
  intro s t i hIrq hPoll hReset h
  show LockKept s t
  have hRefl := LockKept.refl s
  have hBus := LockKept.busClosed s
  cases i with
  | reset => exact absurd rfl hReset
  | irq => exact absurd rfl hIrq
  | tickLockPoll => exact absurd rfl hPoll
  | rtWrite a v => exact unlessFatal_rule h (LockKept.rtWrite a v s)
  | rtRead a n => exact unlessFatal_rule h (LockKept.rtRead a n s)
  | rtRmwClr a m =>
    exact unlessFatal_rule h (hostAdmitRT_rule hRefl (hBus.rmwClr (fun _ hu => hu) s hRefl))
  | rtRmwSet a m =>
    exact unlessFatal_rule h (hostAdmitRT_rule hRefl (hBus.rmwSet (fun _ hu => hu) s hRefl))
  | send req => exact unlessFatal_rule h (LockKept.sendRequest req s)
  | tickSettle => exact unlessFatal_rule h (LockKept.tickSettle s)
  | tickReq k => exact unlessFatal_rule h (LockKept.tickReq k s)
  | reqArm k => exact unlessFatal_rule h (LockKept.reqArm k s)
  | getNodePos => exact unlessFatal_rule h (LockKept.getNodePos s)
  | getMaxPos => exact unlessFatal_rule h (LockKept.getMaxPos s)

/-! ### Off -/

/-- A stimulus that is only refused writes the mark and nothing else (60_exceptions.md R242). -/
theorem unlessFatal_refused {f : State → State} {s : State} {c : RefusalCode} (hf : s.blk.bringup ≠ .fatal)
    (h : f s = refuse c s) : unlessFatal f s = .next { s with blk := markRefused c s.blk } := by
  rw [unlessFatal_live hf, h]
  rfl

/-- The registers are not admitted in Off (41_register_transport.md R115). -/
theorem hostAdmitRT_off {k : State → State} {s : State} (h : s.blk.bringup = .off) :
    hostAdmitRT k s = refuse .state s := if_neg (by simp [h])

/-- Settles O13: every other meaning asks for the state first, or for an operand a well-formed stimulus has. -/
theorem offAdmitsOnlyReset : Obligations.OffAdmitsOnlyReset := by
  intro s i hOff hReset hWf
  have hLive : s.blk.bringup ≠ .fatal := by simp [hOff]
  cases i with
  | reset => exact absurd rfl hReset
  | rtWrite a v => exact unlessFatal_refused hLive (hostAdmitRT_off hOff)
  | rtRead a n => exact unlessFatal_refused hLive ((if_pos hWf).trans (hostAdmitRT_off hOff))
  | rtRmwClr a m => exact unlessFatal_refused hLive (hostAdmitRT_off hOff)
  | rtRmwSet a m => exact unlessFatal_refused hLive (hostAdmitRT_off hOff)
  | irq => exact unlessFatal_refused hLive (if_pos hOff)
  | send req =>
    have hLength : ¬ maxPayload < req.payload.length := not_lt.mpr (of_decide_eq_true hWf)
    exact unlessFatal_refused hLive ((if_neg hLength).trans (if_pos hOff))
  | tickSettle => exact unlessFatal_refused hLive (if_pos hOff)
  | tickLockPoll => exact unlessFatal_refused hLive (if_pos hOff)
  | tickReq k => exact unlessFatal_refused hLive (if_pos hOff)
  | reqArm k => exact unlessFatal_refused hLive (if_pos (by simp [hOff]))
  | getNodePos => exact unlessFatal_refused hLive (if_pos hOff)
  | getMaxPos => exact unlessFatal_refused hLive (if_pos hOff)

end Sys2Proof.Machine
end

section
/-! The shape of the events in the trace (20_memory.md R63, 30_encoding.md R92, R96 and R98, 60_exceptions.md R257): every
event an effect emits has it, and so the trace of every step does. -/

namespace Sys2Proof.Machine

theorem eventWf_of_plainEvent {e : Event} (h : plainEvent e = true) : eventWf e = true := by
  cases e with
  | locked | unlocked | resetLine level | allocResult r => exact nomatch h
  | _ => exact h

theorem TraceWf.emit {s : State} {e : Event} (h : TraceWf s) (he : eventWf e = true) : TraceWf (emit e s) := by
  simpa [TraceWf, he] using h

theorem TraceWf.setAwait {s : State} (h : TraceWf s) (k : ReqKind) (v : Bool) : TraceWf (setAwait k v s) := by
  cases k <;> exact h

/-- Of the three results only get-source carries the mailbox, and its 20 bytes are its shape (R98). -/
theorem TraceWf.resolveWith {s : State} {mb : List Byte} (h : TraceWf s) (hmb : mb.length = 20) (k : ReqKind) :
    TraceWf (resolveWith k mb s) := by
  cases k with
  | alloc => exact TraceWf.emit (s := recordAlloc _ s) h rfl
  | getSource => exact h.emit (decide_eq_true hmb)
  | dealloc =>
    simp only [Machine.resolveWith, recordDealloc_eq]
    exact TraceWf.emit (s := onBlock _ s) h rfl

/-- Every effect of a stimulus emits only events that have their shape. -/
theorem stepKeeps_traceWf : StepKeeps TraceWf where
  fault _ _ h := h
  refused _ _ h := h
  reply _ h := h
  event _ _ he h := h.emit (eventWf_of_plainEvent he)
  ncDrawn _ h := h
  gateDrawn _ h := h
  session _ _ _ h := h
  positions _ _ _ h := h
  lost s _ h := TraceWf.emit (s := setLocked false s) h.1 rfl
  resolved _ k _ _ hmb h := (h.1.setAwait k false).resolveWith hmb k
  reset _ h := h.1.emit (e := .resetLine .deasserted) rfl
  settled _ _ h := h.1.emit (e := .resetLine .asserted) rfl
  expired s k h := TraceWf.setAwait (s := expireReq k s) h.1 k false
  armed _ k h := h.1.setAwait k true
  started _ _ _ _ h := h.1

theorem TraceWf.relock {s : State} (h : Live TraceWf s) : TraceWf (relock s) :=
  stepKeeps_traceWf.bus.clearReason (k := fun s => disarm .lockPoll (setLocked true s)) (fun _ hu => hu.1) _
    ⟨h.1.emit rfl, h.2⟩

/-- The broadcast release and a relock are the only events of the first interrupt beside its register accesses
(70_reset_and_hazards.md R272 to R274). -/
theorem TraceWf.firstInterrupt {s : State} (h : TraceWf s) : TraceWf (firstInterrupt s) :=
  stepKeeps_traceWf.firstInterrupt h (fun _ hu => hu.1.setAwait .dealloc true) (fun _ _ hu => TraceWf.relock hu)
    (fun _ _ hu => hu.1)

/-- Every stimulus keeps the trace well formed. -/
theorem TraceWf.exec {i : Instr} {s t : State} (h : TraceWf s) (he : exec i s = .next t) : TraceWf t :=
  stepKeeps_traceWf.exec (fun _ hu _ _ _ => TraceWf.relock hu) (fun _ _ => h.firstInterrupt) h he

/-- Settles O58: a step is a stimulus, or a decode refusal, which emits nothing. No invariant of the
block is needed: the shape of an event follows from the effect that emits it. -/
theorem everyStepKeepsTheTraceWellFormed : Obligations.EveryStepKeepsTheTraceWellFormed := by
  intro s t _ h hs
  obtain ⟨-, -, ⟨i, rest, -, he⟩ | ⟨c, -, rfl⟩⟩ := step_cases hs
  · exact TraceWf.exec (s := present rest s) h he
  · exact h

end Sys2Proof.Machine
end

section
/-! The encoding of the stimuli (30_encoding.md R80 to R91): what each decoder of operands answers, and from it that
`decode` and `encode` are inverse to each other, what a program cut short and an illegal one are refused with, and how a
whole program is cut into stimuli. -/

namespace Sys2Proof

/-! ### The operands of one row -/

/-- Byte 0 selects the decoder of the operands (R82). -/
@[simp] theorem decode_opcodeByte_cons (o : Opcode) (bs : List Byte) :
    decode (opcodeByte o :: bs) = decodeOperands o bs := by
  simp only [decode, opcodeOf_opcodeByte]

theorem checkRange_of_wellFormed {i : Instr} (h : i.wellFormed = true) (rest : List Byte) :
    checkRange i rest = .ok (i, rest) := if_pos h

theorem checkRange_of_not_wellFormed {i : Instr} (h : i.wellFormed = false) (rest : List Byte) :
    checkRange i rest = .error .fieldRange := if_neg (by simp [h])

theorem decodeTwo_eq_ok {mk : Byte → Byte → Instr} {bs rest : List Byte} {i : Instr}
    (h : decodeTwo mk bs = .ok (i, rest)) :
    ∃ x y, bs = x :: y :: rest ∧ i = mk x y ∧ i.wellFormed = true := by
  unfold decodeTwo at h
  split at h
  · next x y rest' =>
    obtain ⟨hWf, rfl, rfl⟩ := checkRange_eq_ok.mp h
    exact ⟨x, y, rfl, rfl, hWf⟩
  · cases h

theorem decodeKind_eq_ok {mk : ReqKind → Instr} {bs rest : List Byte} {i : Instr}
    (h : decodeKind mk bs = .ok (i, rest)) :
    ∃ k, bs = kindByte k :: rest ∧ i = mk k ∧ i.wellFormed = true := by
  unfold decodeKind at h
  split at h
  · split at h
    · next k hk =>
      obtain ⟨hWf, rfl, rfl⟩ := checkRange_eq_ok.mp h
      exact ⟨k, by rw [kindByte_of_kindOf hk], rfl, hWf⟩
    · cases h
  · cases h

/-- The payload of a SEND that decodes has the length its header says, so the header is the encoded one (R86). -/
theorem decodeSend_eq_ok {bs rest : List Byte} {i : Instr} (h : decodeSend bs = .ok (i, rest)) :
    ∃ req, bs = operandBytes (.send req) ++ rest ∧ i = .send req ∧ i.wellFormed = true := by
  unfold decodeSend at h
  split at h
  · next tH tL fb inst foHi foLo lHi lLo more =>
    dsimp only at h
    split at h
    · cases h
    · next hLength =>
      obtain ⟨hWf, rfl, rfl⟩ := checkRange_eq_ok.mp h
      have hTake : (more.take (joinBytes lHi lLo).toNat).length = (joinBytes lHi lLo).toNat :=
        List.length_take_of_le (not_lt.mp hLength)
      exact ⟨_, by simp [operandBytes, hTake], rfl, hWf⟩
  · cases h

/-- The 16-bit length field of a SEND holds the length of every payload a well-formed one may have (R86). -/
theorem payload_length_mod {req : TxRequest} (h : (Instr.send req).wellFormed = true) :
    req.payload.length % 65536 = req.payload.length := by
  have hMax : req.payload.length ≤ 4095 := of_decide_eq_true h
  omega

/-- A SEND whose payload is cut short is malformed, whatever its length field (R90, 60_exceptions.md R243). -/
theorem decodeSend_short_payload {tH tL fb inst foHi foLo lHi lLo : Byte} {more : List Byte}
    (h : more.length < (joinBytes lHi lLo).toNat) :
    decodeSend (tH :: tL :: fb :: inst :: foHi :: foLo :: lHi :: lLo :: more) = .error .malformed := if_pos h

/-- A SEND whose payload is all there but too long is out of range (R86). -/
theorem decodeSend_long_payload {tH tL fb inst foHi foLo lHi lLo : Byte} {more : List Byte}
    (hLong : maxPayload < (joinBytes lHi lLo).toNat) (hAll : (joinBytes lHi lLo).toNat ≤ more.length) :
    decodeSend (tH :: tL :: fb :: inst :: foHi :: foLo :: lHi :: lLo :: more) = .error .fieldRange := by
  refine (if_neg (not_lt.mpr hAll)).trans (checkRange_of_not_wellFormed ?_ _)
  simp [Instr.wellFormed, hAll, hLong]

/-! ### Any row -/

/-- The operands of a well-formed stimulus are read back, whatever follows them. -/
theorem decodeOperands_operandBytes {i : Instr} (h : i.wellFormed = true) (rest : List Byte) :
    decodeOperands (opcodeOfInstr i) (operandBytes i ++ rest) = .ok (i, rest) := by
  rw [← checkRange_of_wellFormed h rest]
  cases i with
  | send req =>
    simp [opcodeOfInstr, decodeOperands, operandBytes, decodeSend, payload_length_mod h]
  | tickReq k | reqArm k => simp [opcodeOfInstr, decodeOperands, operandBytes, decodeKind]
  | _ => rfl

/-- Operands that decode are those of a well-formed stimulus of the row. -/
theorem decodeOperands_eq_ok {o : Opcode} {bs rest : List Byte} {i : Instr}
    (h : decodeOperands o bs = .ok (i, rest)) :
    i.wellFormed = true ∧ opcodeOfInstr i = o ∧ bs = operandBytes i ++ rest := by
  cases o with
  | rtWrite | rtRead | rtRmwClr | rtRmwSet =>
    obtain ⟨x, y, rfl, rfl, hWf⟩ := decodeTwo_eq_ok h
    exact ⟨hWf, rfl, rfl⟩
  | tickReq | reqArm =>
    obtain ⟨k, rfl, rfl, hWf⟩ := decodeKind_eq_ok h
    exact ⟨hWf, rfl, rfl⟩
  | send =>
    obtain ⟨req, rfl, rfl, hWf⟩ := decodeSend_eq_ok h
    exact ⟨hWf, rfl, rfl⟩
  | reset | irq | tickSettle | tickLockPoll | getNodePos | getMaxPos =>
    obtain ⟨hWf, rfl, rfl⟩ := checkRange_eq_ok.mp h
    exact ⟨hWf, rfl, rfl⟩

/-- Fewer bytes than the row asks for are malformed (R90). -/
theorem decodeOperands_short {o : Opcode} {bs : List Byte} (h : bs.length < fixedOperandBytes o) :
    decodeOperands o bs = .error .malformed := by
  cases o with
  | rtWrite | rtRead | rtRmwClr | rtRmwSet =>
    match bs, h with
    | [], _ => rfl
    | [_], _ => rfl
  | tickReq | reqArm =>
    match bs, h with
    | [], _ => rfl
  | send =>
    show decodeSend bs = _
    unfold decodeSend
    split
    · simp only [List.length_cons, fixedOperandBytes] at h
      omega
    · rfl
  | reset | irq | tickSettle | tickLockPoll | getNodePos | getMaxPos => exact absurd h (Nat.not_lt_zero _)

/-- Operands that are cut are malformed: SEND in its header or in its payload, any other row by its length (R90). -/
theorem decodeOperands_take {i : Instr} {n : Nat} (hWf : i.wellFormed = true) (hn : n < (operandBytes i).length) :
    decodeOperands (opcodeOfInstr i) ((operandBytes i).take n) = .error .malformed := by
  have hCut : ((operandBytes i).take n).length = n := List.length_take_of_le hn.le
  cases i with
  | send req =>
    by_cases hHeader : n < 8
    · exact decodeOperands_short (hCut.trans_lt hHeader)
    · obtain ⟨m, rfl⟩ := Nat.exists_eq_add_of_le' (not_lt.mp hHeader)
      refine decodeSend_short_payload ?_
      simp [operandBytes, payload_length_mod hWf] at hn ⊢
      omega
  | _ => exact decodeOperands_short (hCut.trans_lt hn)

/-! ### One stimulus -/

/-- The length of an encoding is the one the opcode map gives (R82). -/
theorem encode_length (i : Instr) : (encode i).length = stimulusLength i := by
  cases i with
  | send req => exact (Laws.EncodedLength.send req).2
  | _ => rfl

/-- Settles O3, row by row (`decodeOperands_operandBytes`). -/
theorem decodeAfterEncode : Obligations.DecodeAfterEncode := by
  intro i rest h
  rw [encode, List.cons_append, decode_opcodeByte_cons, decodeOperands_operandBytes h]

/-- Settles O2: each word is the encoding of its stimulus, byte by byte. -/
theorem writtenOutWordsDecode : Obligations.WrittenOutWordsDecode :=
  ⟨decodeAfterEncode .reset [] rfl,
    decodeAfterEncode (.rtWrite 0x12 0x34) [] rfl,
    decodeAfterEncode (.rtRead 0xA0 20) [] rfl,
    decodeAfterEncode (.rtRead 0xFF 1) [] rfl,
    decodeAfterEncode .irq [0x10] rfl,
    decodeAfterEncode (.send ⟨⟨0x01, 0x00, 0x22, 0x01, 0x400, 0x2⟩, [0xAA, 0xBB]⟩) [] rfl,
    decodeAfterEncode (.tickReq .dealloc) [] rfl⟩

/-- Settles O4, row by row (`decodeOperands_eq_ok`). -/
theorem encodeAfterDecode : Obligations.EncodeAfterDecode := by
  intro i bytes rest h
  unfold decode at h
  split at h
  · cases h
  · split at h
    · next hOpcode =>
      obtain ⟨hWf, rfl, rfl⟩ := decodeOperands_eq_ok h
      exact ⟨hWf, by rw [← opcodeByte_of_opcodeOf hOpcode, encode, List.cons_append], encode_length i⟩
    · cases h

/-- Settles O5: byte 0 is there, so the cut is in the operands. -/
theorem truncatedStimulusIsMalformed : Obligations.TruncatedStimulusIsMalformed := by
  intro i n hWf hPos hn
  obtain ⟨m, rfl⟩ := Nat.exists_eq_add_of_le' hPos
  rw [encode, List.take_succ_cons, decode_opcodeByte_cons]
  exact decodeOperands_take hWf (Nat.lt_of_succ_lt_succ hn)

/-! ### Illegal encodings -/

theorem opcodeOf_of_notMem {b : Byte} (h : b ∉ opcodes.map opcodeByte) : opcodeOf b = none := by
  rw [opcodeOf, List.find?_eq_none]
  intro o ho hb
  exact h (List.mem_map.mpr ⟨o, ho, eq_of_beq hb⟩)

theorem kindOf_of_three_le {b : Byte} (h : 3 ≤ b.toNat) : kindOf b = none := by
  have hNe : ∀ c : Byte, c.toNat < 3 → b ≠ c := by
    rintro c hc rfl
    omega
  rw [kindOf, if_neg (hNe 0 (by decide)), if_neg (hNe 1 (by decide)), if_neg (hNe 2 (by decide))]

theorem decodeKind_of_three_le (mk : ReqKind → Instr) {b : Byte} (h : 3 ≤ b.toNat) (rest : List Byte) :
    decodeKind mk (b :: rest) = .error .fieldRange := by
  simp only [decodeKind, kindOf_of_three_le h]

/-- The bounds of a burst read fail for no byte and past the top address (R84). -/
theorem burstInBounds_eq_false {a n : Byte} (h : n = 0 ∨ 0xFF < a.toNat + n.toNat - 1) :
    burstInBounds a n = false := by
  obtain rfl | h := h
  · rfl
  · simp only [burstInBounds, Bool.and_eq_false_iff, decide_eq_false_iff_not]
    omega

/-- Settles O6: each clause is one branch of one operand decoder. -/
theorem illegalEncodingsAreRefused : Obligations.IllegalEncodingsAreRefused := by
  refine ⟨?unknown, ?read, ?kind, ?long, ?payload, ?header⟩
  case unknown =>
    intro b rest hb
    have hNone : opcodeOf b = none := opcodeOf_of_notMem hb
    simp only [decode, hNone]
  case read =>
    intro a n rest h
    exact checkRange_of_not_wellFormed (i := .rtRead a n) (burstInBounds_eq_false h) rest
  case kind =>
    intro k rest h
    exact ⟨decodeKind_of_three_le .tickReq h rest, decodeKind_of_three_le .reqArm h rest⟩
  case long =>
    intro tH tL fb inst foHi foLo lHi lLo more hLong hAll
    rw [← joinBytes_toNat] at hLong hAll
    exact decodeSend_long_payload hLong hAll
  case payload =>
    intro tH tL fb inst foHi foLo lHi lLo more h
    rw [← joinBytes_toNat] at h
    exact decodeSend_short_payload h
  case header =>
    intro header h
    exact decodeOperands_short (o := .send) h

/-! ### A whole program -/

theorem decodeFrom_nil (fuel offset : Nat) : decodeFrom fuel offset [] = ([], none) := by
  cases fuel <;> rfl

/-- A program that begins with a stimulus goes on after it (R91). -/
theorem decodeFrom_encode_append (fuel offset : Nat) {i : Instr} (h : i.wellFormed = true) (rest : List Byte) :
    decodeFrom (fuel + 1) offset (encode i ++ rest) =
      (i :: (decodeFrom fuel (offset + (encode i).length) rest).1,
        (decodeFrom fuel (offset + (encode i).length) rest).2) := by
  have hDecode := decodeAfterEncode i rest h
  have hConsumed : (encode i ++ rest).length - rest.length = (encode i).length := by simp
  rw [← hConsumed]
  rw [encode, List.cons_append] at hDecode ⊢
  simp only [decodeFrom, hDecode]

/-- A program whose first stimulus is refused ends there (R91). -/
theorem decodeFrom_of_refused (fuel offset : Nat) {bytes : List Byte} {c : RefusalCode} (hne : bytes ≠ [])
    (h : decode bytes = .error c) : decodeFrom (fuel + 1) offset bytes = ([], some (c, offset)) := by
  obtain ⟨b, bs, rfl⟩ := List.exists_cons_of_ne_nil hne
  simp only [decodeFrom, h]

/-- The bytes of some stimuli, one after the other. -/
def encodeAll (is : List Instr) : List Byte := (is.map encode).flatten

@[simp] theorem encodeAll_nil : encodeAll [] = [] := rfl

@[simp] theorem encodeAll_cons (i : Instr) (is : List Instr) : encodeAll (i :: is) = encode i ++ encodeAll is := rfl

/-- What a decoded program `r` says of the bytes at `offset`: well-formed stimuli, and after their encodings nothing, or
the bytes that are refused at the offset they stand at (R91). -/
def Splits (offset : Nat) (bytes : List Byte) (r : List Instr × Option (RefusalCode × Nat)) : Prop :=
  (∀ i ∈ r.1, i.wellFormed = true) ∧
  ∃ tail, bytes = encodeAll r.1 ++ tail ∧
    (r.2 = none ∧ tail = [] ∨
      ∃ c, r.2 = some (c, offset + (encodeAll r.1).length) ∧ tail ≠ [] ∧ decode tail = .error c)

theorem Splits.cons {offset : Nat} {i : Instr} {rest : List Byte} {r : List Instr × Option (RefusalCode × Nat)}
    (hWf : i.wellFormed = true) (h : Splits (offset + (encode i).length) rest r) :
    Splits offset (encode i ++ rest) (i :: r.1, r.2) := by
  obtain ⟨hAll, tail, rfl, hEnd⟩ := h
  refine ⟨List.forall_mem_cons.mpr ⟨hWf, hAll⟩, tail, by simp, ?_⟩
  simpa [Nat.add_assoc] using hEnd

/-- Fuel for every byte is enough, since a stimulus has at least one. -/
theorem splits_decodeFrom {fuel : Nat} {bytes : List Byte} (offset : Nat) (h : bytes.length ≤ fuel) :
    Splits offset bytes (decodeFrom fuel offset bytes) := by
  induction fuel generalizing bytes offset with
  | zero =>
    obtain rfl := List.length_eq_zero_iff.mp (Nat.le_zero.mp h)
    exact ⟨by simp [decodeFrom_nil], [], rfl, .inl ⟨rfl, rfl⟩⟩
  | succ fuel ih =>
    by_cases hne : bytes = []
    · subst hne
      exact ⟨by simp [decodeFrom_nil], [], rfl, .inl ⟨rfl, rfl⟩⟩
    · cases hDecode : decode bytes with
      | ok d =>
        obtain ⟨hWf, rfl, -⟩ := encodeAfterDecode d.1 bytes d.2 hDecode
        rw [decodeFrom_encode_append fuel offset hWf]
        refine Splits.cons hWf (ih _ ?_)
        simp [encode] at h
        omega
      | error c =>
        rw [decodeFrom_of_refused fuel offset hne hDecode]
        exact ⟨by simp, bytes, rfl, .inr ⟨c, rfl, hne, hDecode⟩⟩

/-- Settles O7: the offset of the refusal is the length of what stands before it. -/
theorem programDecodingIsTotal : Obligations.ProgramDecodingIsTotal := by
  intro bytes
  have hSplits : Splits 0 bytes (decodeProgram bytes) := splits_decodeFrom 0 le_rfl
  generalize decodeProgram bytes = r at hSplits ⊢
  change _ ∧ (_ → bytes = encodeAll r.1) ∧ ∀ c off, _ → _ ∧ bytes.take off = encodeAll r.1 ∧ _
  obtain ⟨hWf, tail, rfl, ⟨hNone, rfl⟩ | ⟨c, hSome, hTail, hRefused⟩⟩ := hSplits
  · exact ⟨hWf, by simp, by simp [hNone]⟩
  · exact ⟨hWf, by simp [hSome], by simp [hSome, hRefused, List.length_pos_iff.mpr hTail]⟩

end Sys2Proof
end

section
/-! The fields of the two frame layouts (30_encoding.md R92 to R97), by arithmetic on the bytes. -/

namespace Sys2Proof.Machine

theorem hiByte_eq_ofNat (w : Word16) : hiByte w = BitVec.ofNat 8 (w.toNat / 256) := by
  apply BitVec.eq_of_toNat_eq
  simp [hiByte, Nat.shiftRight_eq_div_pow]

theorem loByte_eq_ofNat (w : Word16) : loByte w = BitVec.ofNat 8 w.toNat := by
  apply BitVec.eq_of_toNat_eq
  simp [loByte]

/-- A value of 4 bits under a wider one: the packing of the telegram byte and of the function id (R93, R95). -/
theorem toNat_shiftLeft_four_or {m w : Nat} (a : BitVec m) (b : BitVec w) (hw : m + 4 ≤ w) (hb : b.toNat < 16) :
    (a.setWidth w <<< 4 ||| b).toNat = 16 * a.toNat + b.toNat := by
  have ha : a.toNat * 2 ^ 4 < 2 ^ w :=
    calc a.toNat * 2 ^ 4 < 2 ^ m * 2 ^ 4 := Nat.mul_lt_mul_of_pos_right a.isLt (by decide)
      _ = 2 ^ (m + 4) := (Nat.pow_add ..).symm
      _ ≤ 2 ^ w := Nat.pow_le_pow_right (by decide) hw
  have hShift : (a.setWidth w <<< 4).toNat = a.toNat <<< 4 := by
    rw [BitVec.toNat_shiftLeft, BitVec.toNat_setWidth_of_le (by omega), Nat.shiftLeft_eq, Nat.mod_eq_of_lt ha]
  rw [BitVec.toNat_or, hShift, ← Nat.shiftLeft_add_eq_or_of_lt hb, Nat.shiftLeft_eq]
  omega

/-! ### The outbound slot -/

/-- Byte 6 of the slot: the upper 8 bits of the function id (R92). -/
theorem hiByte_packFnOp (fn : FunctionId) (op : Nibble) :
    hiByte (packFnOp fn op) = BitVec.ofNat 8 (fn.toNat / 16) := by
  have hOp := op.isLt
  rw [hiByte_eq_ofNat, packFnOp_toNat]
  congr 1
  omega

/-- Byte 7: the lower 4 bits of the function id above the operation type (R92). -/
theorem loByte_packFnOp (fn : FunctionId) (op : Nibble) :
    loByte (packFnOp fn op) = BitVec.ofNat 8 (16 * (fn.toNat % 16) + op.toNat) := by
  rw [loByte_eq_ofNat, packFnOp_toNat]
  apply BitVec.eq_of_toNat_eq
  simp only [BitVec.toNat_ofNat]
  omega

/-- Byte 8: the telegram id above the length (R93). -/
theorem telegramByte_eq_ofNat (tid : Nibble) {len : Nat} (h : len < 16) :
    telegramByte tid len = BitVec.ofNat 8 (16 * tid.toNat + len) := by
  have hLen : (BitVec.ofNat 8 len).toNat = len := Nat.mod_eq_of_lt (by omega)
  have hTid := tid.isLt
  apply BitVec.eq_of_toNat_eq
  rw [telegramByte, toNat_shiftLeft_four_or tid _ (by decide) (hLen.trans_lt h), hLen, BitVec.toNat_ofNat]
  omega

/-- Settles O43: the nine bytes before the data one by one, then the data and its padding. -/
theorem outboundSlotLayout : Obligations.OutboundSlotLayout := by
  intro P h tid d _ hd
  refine ⟨buildFrame_length P h tid hd, rfl, rfl, rfl, rfl, rfl, rfl, ?_, ?_, ?_, ?data, ?padding⟩
  · exact congrArg some (hiByte_packFnOp h.fn h.op)
  · exact congrArg some (loByte_packFnOp h.fn h.op)
  · exact congrArg some (telegramByte_eq_ofNat tid (by omega))
  case data => simp [buildFrame]
  case padding => exact List.drop_drop.symm.trans List.drop_left

/-! ### The inbound buffer -/

theorem toNat_extractLsb'_upper (b : Byte) : (b.extractLsb' 4 4).toNat = b.toNat / 16 := by
  have := b.isLt
  simp [Nat.shiftRight_eq_div_pow]
  omega

theorem toNat_extractLsb'_lower (b : Byte) : (b.extractLsb' 0 4).toNat = b.toNat % 16 := by
  simp

/-- The function id is byte 5 above the upper half of byte 6 (R95). -/
theorem functionId_toNat (hi lo : Byte) :
    (hi.setWidth 12 <<< 4 ||| (lo.extractLsb' 4 4).setWidth 12).toNat = 16 * hi.toNat + lo.toNat / 16 := by
  have hUpper : ((lo.extractLsb' 4 4).setWidth 12).toNat = lo.toNat / 16 := by
    rw [BitVec.toNat_setWidth_of_le (by decide), toNat_extractLsb'_upper]
  have := lo.isLt
  rw [toNat_shiftLeft_four_or hi _ (by decide) (by omega), hUpper]

/-- Settles O44: the address bytes stand as they are, the packed fields by their bits; the area has 12 bytes. -/
theorem inboundBufferFields : Obligations.InboundBufferFields := by
  intro P ty sH sL fb inst hi lo tel area hArea
  refine ⟨rfl, rfl, rfl, rfl, functionId_toNat hi lo, toNat_extractLsb'_lower lo, toNat_extractLsb'_upper tel,
    toNat_extractLsb'_lower tel, ?_⟩
  have hAll : area.take 12 = area := List.take_of_length_le hArea.le
  simp [decodeFrame, byteAt, hAll]

end Sys2Proof.Machine
end

section
/-! One step of a run: the stimulus it decodes (30_encoding.md R80), and a timer stimulus without its timer (R81). -/

namespace Sys2Proof.Machine

/-- Outside Fatal a run that has not ended decodes the next stimulus (60_exceptions.md R243). -/
theorem step_eq_runNext {s : State} (hf : s.blk.bringup ≠ .fatal) (he : s.env.ended = none) :
    step s = runNext exec s := by
  simp [step, stepWith, hf, he]

/-- Settles O1: a program that decodes is not empty, so the step is the stimulus. -/
theorem stepRunsTheDecodedStimulus : Obligations.StepRunsTheDecodedStimulus := by
  intro s i rest hf he hd
  refine ⟨?_, rfl⟩
  rw [step_eq_runNext hf he, runNext]
  split
  · next hNil =>
    rw [hNil] at hd
    cases hd
  · rw [hd]

/-- Settles O14: the state check passes, and the timer check refuses. -/
theorem timerStimulusNeedsItsTimer : Obligations.TimerStimulusNeedsItsTimer := by
  intro s i hf hOff hTimer
  cases i with
  | tickSettle => exact unlessFatal_refused hf ((if_neg hOff).trans (if_pos hTimer))
  | tickLockPoll => exact unlessFatal_refused hf ((if_neg hOff).trans (if_pos hTimer))
  | tickReq k =>
    have hNone : reqCount s.blk.reqTimers k = 0 := by simpa [timerEnabled] using hTimer
    exact unlessFatal_refused hf ((if_neg hOff).trans (if_pos hNone))
  | _ => exact nomatch hTimer

end Sys2Proof.Machine
end

section
/-! The register transport (41_register_transport.md R110 to R115): where the four RT_ stimuli are admitted each is its
access, and elsewhere a refusal; their frame, with that of the lock poll. -/

namespace Sys2Proof.Machine

/-! ### Admission -/

section

variable {s : State}

/-- Outside Resetting and AwaitingFirstInterrupt the registers are refused (R115). -/
theorem hostAdmitRT_refused {k : State → State} (hReset : s.blk.bringup ≠ .resetting)
    (hAwait : s.blk.bringup ≠ .awaitingFirstInterrupt) : hostAdmitRT k s = refuse .state s :=
  if_neg (not_or.mpr ⟨hReset, hAwait⟩)

/-- The range check of RT_READ comes before the admission, and passes in bounds (R111). -/
theorem rtRead_inBounds {a n : Byte} (hb : burstInBounds a n = true) :
    rtRead a n s = hostAdmitRT (memRead a n fun data => emit (.hostReturn (.bytes data))) s := if_pos hb

variable (h : s.blk.bringup = .resetting ∨ s.blk.bringup = .awaitingFirstInterrupt)
include h

theorem hostAdmitRT_admitted (k : State → State) : hostAdmitRT k s = k s := if_pos h

/-- An admitted stimulus is presented outside Fatal, so its meaning is its access. -/
theorem unlessFatal_admitted {f k : State → State} (hf : f s = hostAdmitRT k s) : unlessFatal f s = .next (k s) := by
  have hLive : s.blk.bringup ≠ .fatal := by rcases h with h | h <;> simp [h]
  rw [unlessFatal_live hLive, hf, hostAdmitRT_admitted h]

theorem exec_rtWrite_admitted (a v : Byte) :
    exec (.rtWrite a v) s = .next (memWrite a v (fun rx => emit (.hostReturn (.byte rx))) s) :=
  unlessFatal_admitted h rfl

theorem exec_rtRead_admitted {a n : Byte} (hb : burstInBounds a n = true) :
    exec (.rtRead a n) s = .next (memRead a n (fun data => emit (.hostReturn (.bytes data))) s) :=
  unlessFatal_admitted h (rtRead_inBounds hb)

theorem exec_rtRmwClr_admitted (a m : Byte) : exec (.rtRmwClr a m) s = .next (rmwClr a m id s) :=
  unlessFatal_admitted h rfl

theorem exec_rtRmwSet_admitted (a m : Byte) : exec (.rtRmwSet a m) s = .next (rmwSet a m id s) :=
  unlessFatal_admitted h rfl

end

/-- Settles O21: in range, each of the four asks only for the admission. -/
theorem registerStimuliAreRefusedAfterBringup : Obligations.RegisterStimuliAreRefusedAfterBringup := by
  intro s i hi hf hReset hAwait
  have hRefused : ∀ k, hostAdmitRT k s = refuse .state s := fun _ => hostAdmitRT_refused hReset hAwait
  cases i with
  | rtWrite a v => exact unlessFatal_refused hf (hRefused _)
  | rtRead a n => exact unlessFatal_refused hf ((rtRead_inBounds hi).trans (hRefused _))
  | rtRmwClr a m => exact unlessFatal_refused hf (hRefused _)
  | rtRmwSet a m => exact unlessFatal_refused hf (hRefused _)
  | _ => exact nomatch hi

/-! ### Answered accesses -/

/-- The chip plays one access exactly where it answers it with the bytes recorded. -/
theorem chipPlays_singleton {e : Event} {acc : Access} {data : List Byte} {s : State}
    (he : recordedAccess e = some (acc, data)) : chipPlays [e] s = true ↔ busReply acc s = some data := by
  simp [chipPlays, he]

/-- Settles O18: one write, and the byte it returns. -/
theorem registerWriteResult : Obligations.RegisterWriteResult := by
  intro s a v rx h hr
  rw [exec_rtWrite_admitted h, (memWrite_plays _ ((chipPlays_singleton rfl).mpr hr)).1]
  rfl

/-- Settles O19: one read, and the bytes it returns. -/
theorem registerReadResult : Obligations.RegisterReadResult := by
  intro s a n data h hn ha hr
  have hb : burstInBounds a n = true := by simp [burstInBounds, hn, ha]
  refine ⟨?_, busReply_length hr⟩
  rw [exec_rtRead_admitted h hb, (memRead_plays _ hb ((chipPlays_singleton rfl).mpr hr)).1]
  rfl

/-- Settles O20: a read-modify-write with nothing after it. -/
theorem readModifyWriteResults : Obligations.ReadModifyWriteResults := by
  intro s a m v rx h
  refine ⟨fun hp => ?_, fun hp => ?_⟩
  · rw [exec_rtRmwClr_admitted h]
    exact congrArg _ (rmwClr_plays id hp).1
  · rw [exec_rtRmwSet_admitted h]
    exact congrArg _ (rmwSet_plays id hp).1

/-! ### Failed accesses -/

section

variable {e : Event} {es : List Event} {u : State} {o : Outcome} {acc : Access} {data : List Byte}

/-- The first access fails (R114). -/
theorem StopsAtFailure.first (h : StopsAtFailure (e :: es) u o) (he : recordedAccess e = some (acc, data))
    (hb : busReply acc u = none) : o = .next (onBlock (markFault .transport) (takeReply u)) :=
  h [] es e acc data rfl he rfl hb

/-- The first event is played, and the access after it fails. -/
theorem StopsAtFailure.second {e₀ : Event} (h : StopsAtFailure (e₀ :: e :: es) u o) (hp : chipPlays [e₀] u = true)
    (he : recordedAccess e = some (acc, data)) (hb : busReply acc (played [e₀] u) = none) :
    o = .next (onBlock (markFault .transport) (takeReply (played [e₀] u))) :=
  h [e₀] es e acc data rfl he hp hb

end

theorem rmwClr_stops (a m v rx : Byte) (s : State) :
    StopsAtFailure [.regRead a 1#8 [v], .regWrite a (clearBits v m) rx] s (.next (rmwClr a m id s)) :=
  memReadByte_stops (memWrite_stops (stopsAtFailure_nil _ _))

theorem rmwSet_stops (a m v rx : Byte) (s : State) :
    StopsAtFailure [.regRead a 1#8 [v], .regWrite a (setBits v m) rx] s (.next (rmwSet a m id s)) :=
  memReadByte_stops (memWrite_stops (stopsAtFailure_nil _ _))

/-- Settles O22: a single access, and the read and the write of a read-modify-write. -/
theorem failedRegisterAccessIsFatal : Obligations.FailedRegisterAccessIsFatal := by
  intro s a x h
  rw [exec_rtWrite_admitted h, exec_rtRmwClr_admitted h, exec_rtRmwSet_admitted h]
  refine ⟨fun hw => ?write, fun hb hr => ?read, fun hr => ⟨?clrRead, ?setRead⟩,
    fun v hr => ⟨?clrWrite, ?setWrite⟩⟩
  case write => exact (memWrite_stops (rx := 0) (stopsAtFailure_nil _ _)).first rfl hw
  case read =>
    rw [exec_rtRead_admitted h hb]
    exact (memRead_stops (data := []) hb (stopsAtFailure_nil _ _)).first rfl hr
  case clrRead => exact (rmwClr_stops a x 0 0 s).first rfl hr
  case setRead => exact (rmwSet_stops a x 0 0 s).first rfl hr
  case clrWrite => exact (rmwClr_stops a x v 0 s).second ((chipPlays_singleton rfl).mpr hr) rfl
  case setWrite => exact (rmwSet_stops a x v 0 s).second ((chipPlays_singleton rfl).mpr hr) rfl

/-! ### Frame -/

/-- `t` is `s` but for what the RT_ stimuli and the lock poll may write: the lock state, a transport fault, the refused
mark with its code, the trace, and the chip's answers that were used up. -/
structure RegisterFrame (s t : State) : Prop where
  cfg : t.cfg = s.cfg
  program : t.env.program = s.env.program
  blk : t.blk = { s.blk with
    transceiverLocked := t.blk.transceiverLocked
    lockPollActive := t.blk.lockPollActive
    bringup := t.blk.bringup
    fault := t.blk.fault
    refused := t.blk.refused
    refusedCode := t.blk.refusedCode
    trace := t.blk.trace }
  fault : t.blk.bringup = s.blk.bringup ∧ t.blk.fault = s.blk.fault ∨
    t.blk.bringup = .fatal ∧ t.blk.fault = some .transport

namespace RegisterFrame

variable {s t : State}

theorem refl (s : State) : RegisterFrame s s := ⟨rfl, rfl, rfl, .inl ⟨rfl, rfl⟩⟩

/-- An update that writes none of the other fields, the mode and the fault among them, keeps the frame. -/
theorem update (h : RegisterFrame s t) {f : Block → Block}
    (hf : ∀ b, f b = { b with
      transceiverLocked := (f b).transceiverLocked
      lockPollActive := (f b).lockPollActive
      refused := (f b).refused
      refusedCode := (f b).refusedCode
      trace := (f b).trace }) : RegisterFrame s (onBlock f t) where
  cfg := h.cfg
  program := h.program
  blk := by rw [onBlock_blk, hf, h.blk]
  fault := by
    rw [onBlock_blk, hf]
    exact h.fault

theorem emit (h : RegisterFrame s t) (e : Event) : RegisterFrame s (emit e t) :=
  h.update (f := fun b => { b with trace := b.trace ++ [e] }) fun _ => rfl

theorem refuse (h : RegisterFrame s t) (c : RefusalCode) : RegisterFrame s (refuse c t) :=
  h.update (f := markRefused c) fun _ => rfl

theorem locked (h : RegisterFrame s t) : RegisterFrame s (disarm .lockPoll (setLocked true t)) :=
  h.update (f := fun b => { b with transceiverLocked := true, lockPollActive := false }) fun _ => rfl

/-- A failed access faults with FATAL_TRANSPORT (R114), an answered one adds an event. -/
theorem busClosed (s : State) : BusClosed (RegisterFrame s) (RegisterFrame s) where
  fault _ h :=
    { cfg := h.cfg
      program := h.program
      blk := by rw [raiseFault, takeReply_blk, h.blk]
      fault := .inr ⟨rfl, rfl⟩ }
  read t a n data _ _ h := RegisterFrame.emit (t := takeReply t) { h with } _
  write t a v rx h := RegisterFrame.emit (t := takeReply t) { h with } _

theorem relock (h : RegisterFrame s t) : RegisterFrame s (relock t) :=
  (busClosed s).clearReason (k := fun u => disarm .lockPoll (setLocked true u)) (fun _ hu => hu.locked) _
    (h.emit .locked)

theorem tickLockPoll (s : State) : RegisterFrame s (tickLockPoll s) := by
  unfold Machine.tickLockPoll
  split_ifs
  · exact (refl s).refuse _
  · exact (refl s).refuse _
  · refine (busClosed s).lockEval (fun _ u hu => ?_) s (refl s)
    split
    · exact hu.relock
    · exact hu

theorem hostAdmitRT {k : State → State} (hk : RegisterFrame s (k s)) : RegisterFrame s (hostAdmitRT k s) :=
  hostAdmitRT_rule ((refl s).refuse _) hk

theorem rtWrite (a v : Byte) (s : State) : RegisterFrame s (rtWrite a v s) :=
  hostAdmitRT ((busClosed s).memWrite (k := fun rx => Machine.emit (.hostReturn (.byte rx))) (fun _ _ hu => hu.emit _) s
    (refl s))

theorem rtRead {a n : Byte} (hb : burstInBounds a n = true) (s : State) : RegisterFrame s (rtRead a n s) := by
  rw [rtRead_inBounds hb]
  exact hostAdmitRT (memRead_rule ((refl s).refuse _) ((busClosed s).fault s (refl s)) fun _ hb hl =>
    ((busClosed s).read s _ _ _ hb hl (refl s)).emit _)

/-- Every one of the five stimuli has the frame. -/
theorem exec {i : Instr} (hi : isRegisterTransport i = true ∨ i = .tickLockPoll) (he : exec i s = .next t) :
    RegisterFrame s t := by
  rcases hi with hi | rfl
  · cases i with
    | rtWrite a v => exact unlessFatal_rule he (rtWrite a v s)
    | rtRead a n => exact unlessFatal_rule he (rtRead hi s)
    | rtRmwClr a m => exact unlessFatal_rule he (hostAdmitRT ((busClosed s).rmwClr (fun _ hu => hu) s (refl s)))
    | rtRmwSet a m => exact unlessFatal_rule he (hostAdmitRT ((busClosed s).rmwSet (fun _ hu => hu) s (refl s)))
    | _ => exact nomatch hi
  · exact unlessFatal_rule he (tickLockPoll s)

end RegisterFrame

/-- Settles O23: the frame of the five, and O47 for the lock state, which the RT_ stimuli do not move. -/
theorem registerAndPollFrame : Obligations.RegisterAndPollFrame := by
  intro s t i hi he
  have h := RegisterFrame.exec hi he
  refine ⟨h.cfg, h.program, h.blk, fun hPoll => ?_, h.fault⟩
  have hRt : isRegisterTransport i = true := hi.resolve_right hPoll
  exact onlyTheMonitorAndResetMoveTheLock s t i (by rintro rfl; cases hRt) hPoll (by rintro rfl; cases hRt) he

end Sys2Proof.Machine
end

section
/-! Where an interrupt and a lock poll end when the chip fails an access of them (41_register_transport.md R114). -/

namespace Sys2Proof.Machine

/-! ### The lock poll and the first interrupt -/

/-- An armed poll outside Off evaluates the lock (44_lock_monitor.md R206). -/
theorem exec_tickLockPoll_armed {s : State} (hf : s.blk.bringup ≠ .fatal) (hOff : s.blk.bringup ≠ .off)
    (hPoll : s.blk.lockPollActive = true) :
    exec .tickLockPoll s = .next (lockEval (fun locked s => if locked then relock s else s) s) := by
  have hEval : tickLockPoll s = lockEval (fun locked s => if locked then relock s else s) s := by
    simp [tickLockPoll, hOff, hPoll]
  exact (unlessFatal_live hf).trans (congrArg _ hEval)

/-- The block when the configuration table is written and the deallocation is awaited (70_reset_and_hazards.md R272,
R274). -/
def configuredBlock (b : Block) : Block :=
  { b with
    irqArmed := .steadyState
    bringup := .operational
    awaitDealloc := true
    reqTimers := { b.reqTimers with dealloc := b.reqTimers.dealloc + 1 } }

/-- A first interrupt whose table writes the chip answers comes to the lock check (R272 to R274). -/
theorem firstInterrupt_plays {s : State} {rxs : List Byte} (hl : rxs.length = s.cfg.configTable.length)
    (h : chipPlays (tableEvents s.cfg.configTable rxs ++ [.allocPortReq .deallocAll broadcastLabel]) s = true) :
    firstInterrupt s = bringupLockCheck (onBlock configuredBlock
      (played (tableEvents s.cfg.configTable rxs ++ [.allocPortReq .deallocAll broadcastLabel]) s)) := by
  rw [← chipPlays_onBlock (f := fun b => { b with irqArmed := .none, bringup := .configuring }) fun _ _ => rfl] at h
  rw [firstInterrupt, (writeTable_plays _ hl h).1, played_onBlock fun _ _ => rfl, played_append]
  rfl

/-- A failed table write leaves the block in Configuring with no watch armed, but for the fault (R272). -/
theorem firstInterrupt_table_stops {s : State} {rxs : List Byte} (hl : rxs.length = s.cfg.configTable.length) :
    StopsAtFailure (tableEvents s.cfg.configTable rxs)
      (onBlock (fun b => { b with irqArmed := .none, bringup := .configuring }) s) (.next (firstInterrupt s)) :=
  (writeTable_stops (es := []) hl (stopsAtFailure_nil _ _)).init

/-! ### The steady-state branches -/

/-- The status read, and then the branch it selects (42_interrupt_dispatch.md R131). -/
theorem exec_irq_stops {s : State} {x : Byte} {r : Option Reason} {es : List Event} (hs : serving s = true)
    (hr : reasonOf s.cfg x = r)
    (h : StopsAtFailure es (follow (.regRead s.cfg.regStatus 1#8 [x]) s)
      (.next (branch r (follow (.regRead s.cfg.regStatus 1#8 [x]) s)))) :
    StopsAtFailure (.regRead s.cfg.regStatus 1#8 [x] :: es) s (exec .irq s) := by
  subst hr
  rw [exec_irq_serving hs]
  exact memReadByte_stops (by simpa using h)

section

variable {P : Params} {u : State} (hP : u.cfg = P)
include hP

/-- The receive buffer, the clearing and the re-enabling (R132). -/
theorem rxBranch_stops {b : List Byte} {v rv e re : Byte} (hWf : P.wellFormed = true) :
    StopsAtFailure (.regRead P.regRxBuf 20#8 b :: .mostMessageRx (decodeFrame P b) :: (clearEvents P .rx v rv
      ++ [.regRead P.regRbe 1#8 [e], .regWrite P.regRbe (reenabled P e) re])) u (.next (rxBranch u)) := by
  subst hP
  refine memRead_stops (burstInBounds_rxBuf hWf) (emit_stops rfl ?_)
  rw [follow_cfg]
  exact clearReason_stops (by simp) (reenableRx_stops (by simp))

/-- The fault register, and the clearing if the lock is not lost (44_lock_monitor.md R200 to R203, R208). -/
theorem errBranch_stops {f v rv : Byte} :
    StopsAtFailure (.regRead P.regFault 1#8 [f] ::
      (if lockLossCondition P u.blk.transceiverLocked f then [] else clearEvents P .err v rv)) u
      (.next (errBranch u)) := by
  subst hP
  rw [errBranch, lockFault]
  refine memReadByte_stops ?_
  simp only [follow_cfg, follow_blk]
  split
  · exact stopsAtFailure_nil _ _
  · exact (clearReason_stops (es := []) (by simp) (stopsAtFailure_nil _ _)).init

/-- The clearing, and the mailbox if a request is pending (42_interrupt_dispatch.md R135). -/
theorem txBranch_stops {v rv : Byte} {mb : List Byte} (hWf : P.wellFormed = true) :
    StopsAtFailure (clearEvents P .tx v rv
      ++ (if pendingRequest u.blk = none then [] else [.regRead P.regMbox 20#8 mb])) u (.next (txBranch u)) := by
  subst hP
  refine clearReason_stops rfl ?_
  have hPending : pendingRequest (played (clearEvents u.cfg .tx v rv) u).blk = pendingRequest u.blk := by
    rw [played_blk]
    rfl
  rw [resolvePending, hPending]
  cases pendingRequest u.blk with
  | none => exact stopsAtFailure_nil _ _
  | some k =>
    show StopsAtFailure _ _ (.next (resolveRequest k messageSent _))
    rw [resolveRequest, played_cfg]
    exact memRead_stops (burstInBounds_mbox hWf) (stopsAtFailure_nil _ _)

/-- The two position registers (R137). -/
theorem readPositions_stops {p mx : Byte} :
    StopsAtFailure [.regRead P.regNpr 1#8 [p], .regRead P.regMpr 1#8 [mx]] u (.next (readPositions u)) := by
  subst hP
  refine memReadByte_stops ?_
  rw [follow_cfg]
  exact memReadByte_stops (stopsAtFailure_nil _ _)

/-- The clearing comes first under every policy (R137). -/
theorem ncBranch_clear_stops {v rv : Byte} : StopsAtFailure (clearEvents P .nc v rv) u (.next (ncBranch u)) :=
  (clearReason_stops (es := []) hP (stopsAtFailure_nil _ _)).init

/-- The position registers after it, where the policy always reads them. -/
theorem ncBranch_read_stops {v rv p mx : Byte} (hRead : P.ncPosition = .read) :
    StopsAtFailure (clearEvents P .nc v rv ++ [.regRead P.regNpr 1#8 [p], .regRead P.regMpr 1#8 [mx]]) u
      (.next (ncBranch u)) := by
  refine clearReason_stops hP ?_
  rw [ncPositions, played_cfg, hP, hRead]
  exact readPositions_stops (by simpa using hP)

/-- A draw that reads the positions comes after the clearing. -/
theorem ncBranch_either_eq {v rv : Byte} (hEither : P.ncPosition = .either)
    (h : chipPlays (clearEvents P .nc v rv) u = true) (hDraw : ncDraw (played (clearEvents P .nc v rv) u) = true) :
    ncBranch u = readPositions (takeNcDraw (played (clearEvents P .nc v rv) u)) := by
  rw [← List.append_nil (clearEvents P .nc v rv)] at h
  rw [ncBranch, (clearReason_plays _ hP h).1, ncPositions, played_cfg, hP, hEither]
  exact if_pos hDraw

end

/-- Settles O16: the first interrupt and the lock poll, and the steady-state interrupt branch by branch. -/
theorem failedAccessKeepsEarlierEffects : Obligations.FailedAccessKeepsEarlierEffects := by
  refine ⟨fun s rxs hw hl => ?table, fun s rxs p q v rx hw hl hp => ?check, fun s p q v rx hf hOff hPoll => ?poll,
    fun s x hs => ⟨?status, fun b v rv e re hWf hr => ?rx, fun f v rv hr => ?err, fun v rv mb hWf hr => ?tx,
      fun v rv p mx hr => ⟨?clear, fun hRead => ?read, fun hEither hp hDraw => ?either⟩⟩⟩
  case table =>
    rw [exec_irq_watching hw]
    exact firstInterrupt_table_stops hl
  case check =>
    rw [exec_irq_watching hw, firstInterrupt_plays hl hp]
    exact lockCheck_stops (by simp) fun _ => rfl
  case poll =>
    rw [exec_tickLockPoll_armed hf hOff hPoll]
    exact lockCheck_stops rfl fun _ => rfl
  case status => exact exec_irq_stops hs rfl (stopsAtFailure_nil _ _)
  case rx => exact exec_irq_stops hs hr (rxBranch_stops (by simp) hWf)
  case err =>
    refine exec_irq_stops hs hr ?_
    have h := errBranch_stops (P := s.cfg) (u := follow (.regRead s.cfg.regStatus 1#8 [x]) s) (f := f) (v := v)
      (rv := rv) (by simp)
    rwa [follow_blk] at h
  case tx =>
    refine exec_irq_stops hs hr ?_
    have h := txBranch_stops (P := s.cfg) (u := follow (.regRead s.cfg.regStatus 1#8 [x]) s) (v := v) (rv := rv)
      (mb := mb) (by simp) hWf
    rwa [follow_blk] at h
  case clear => exact exec_irq_stops hs hr (ncBranch_clear_stops (by simp))
  case read => exact exec_irq_stops hs hr (ncBranch_read_stops (by simp) hRead)
  case either =>
    obtain ⟨hIrq, hCleared⟩ := exec_irq_plays hs rfl hp
    rw [hIrq, hr, branch, ncBranch_either_eq (by simp) hEither hCleared hDraw]
    exact readPositions_stops (by simp)

end Sys2Proof.Machine
end

section
/-! Interrupt dispatch (42_interrupt_dispatch.md R130 to R141): the branch a status byte selects, what each branch does
when the chip answers its accesses, what a read-modify-write of a mask writes back, and the frame of an interrupt. -/

namespace Sys2Proof.Machine

/-! ### The order of the reasons -/

section

variable {P : Params} {x : Byte}

theorem reasonOf_rx (hRx : holds P.matchRx x = true) : reasonOf P x = some .rx := if_pos hRx

theorem reasonOf_err (hRx : holds P.matchRx x = false) (hErr : holds P.matchErr x = true) :
    reasonOf P x = some .err := by
  simp [reasonOf, hRx, hErr]

theorem reasonOf_tx (hRx : holds P.matchRx x = false) (hErr : holds P.matchErr x = false)
    (hTx : holds P.matchTx x = true) : reasonOf P x = some .tx := by
  simp [reasonOf, hRx, hErr, hTx]

theorem reasonOf_nc (hRx : holds P.matchRx x = false) (hErr : holds P.matchErr x = false)
    (hTx : holds P.matchTx x = false) (hNc : holds P.matchNc x = true) : reasonOf P x = some .nc := by
  simp [reasonOf, hRx, hErr, hTx, hNc]

theorem reasonOf_unmatched (hRx : holds P.matchRx x = false) (hErr : holds P.matchErr x = false)
    (hTx : holds P.matchTx x = false) (hNc : holds P.matchNc x = false) : reasonOf P x = none := by
  simp [reasonOf, hRx, hErr, hTx, hNc]

end

/-- What a serviced interrupt answers is what the selected branch answers after the status read (R131). -/
theorem exec_irq_of_branch {s t : State} {x : Byte} {r : Option Reason} {es : List Event} (hs : serving s = true)
    (hr : reasonOf s.cfg x = r) (h : chipPlays (.regRead s.cfg.regStatus 1#8 [x] :: es) s = true)
    (hb : chipPlays es (follow (.regRead s.cfg.regStatus 1#8 [x]) s) = true →
      branch r (follow (.regRead s.cfg.regStatus 1#8 [x]) s) = t) : exec .irq s = .next t := by
  obtain ⟨hIrq, hMore⟩ := exec_irq_plays hs rfl h
  rw [hIrq, hr, hb hMore]

/-- Settles O32: no branch but the log. -/
theorem unmatchedStatusIsLogged : Obligations.UnmatchedStatusIsLogged := by
  intro s x hs hRx hErr hTx hNc evs hp
  exact exec_irq_of_branch hs (reasonOf_unmatched hRx hErr hTx hNc) hp fun _ => rfl

/-! ### The message-received branch -/

/-- The buffer is read and delivered, the reason cleared, the buffer re-enabled (R132). -/
theorem rxBranch_plays {P : Params} {u : State} {b : List Byte} {v rv e re : Byte} (hP : u.cfg = P)
    (hWf : P.wellFormed = true)
    (h : chipPlays (.regRead P.regRxBuf 20#8 b :: .mostMessageRx (decodeFrame P b) :: (clearEvents P .rx v rv
      ++ [.regRead P.regRbe 1#8 [e], .regWrite P.regRbe (reenabled P e) re])) u = true) :
    rxBranch u = played (.regRead P.regRxBuf 20#8 b :: .mostMessageRx (decodeFrame P b) :: (clearEvents P .rx v rv
      ++ [.regRead P.regRbe 1#8 [e], .regWrite P.regRbe (reenabled P e) re])) u := by
  subst hP
  obtain ⟨hRead, h⟩ := memRead_plays
    (fun b s => clearReason .rx reenableRx (deliver (decodeFrame s.cfg b) s)) (burstInBounds_rxBuf hWf) h
  obtain ⟨hDeliver, h⟩ := chipPlays_silent rfl h
  obtain ⟨hClear, h⟩ := clearReason_plays reenableRx (by simp) h
  rw [rxBranch, hRead, follow_cfg, deliver, hDeliver, hClear, (reenableRx_plays (by simp) h).1]
  rfl

/-- Settles O25: RX is the first reason, whatever else matches. -/
theorem receiveInterruptDeliversOneFrame : Obligations.ReceiveInterruptDeliversOneFrame := by
  intro s x b v rv e re hs hWf hRx evs hp
  exact exec_irq_of_branch hs (reasonOf_rx hRx) hp (rxBranch_plays (follow_cfg ..) hWf)

/-! ### The error branch -/

/-- The conjunction of 44_lock_monitor.md R202. -/
theorem lockLossCondition_eq_true_iff (P : Params) (locked : Bool) (f : Byte) :
    lockLossCondition P locked f = true ↔ f &&& P.mLockActive ≠ 0 ∧ P.isMaster = false ∧ locked = true := by
  simp [lockLossCondition, and_assoc]

/-- After the fault byte the lock is lost, or only the reason is cleared (44_lock_monitor.md R201, R203, R208). -/
theorem errBranch_plays {P : Params} {u : State} {f : Byte} {es : List Event} (hP : u.cfg = P)
    (h : chipPlays (.regRead P.regFault 1#8 [f] :: es) u = true) :
    errBranch u = (if lockLossCondition P u.blk.transceiverLocked f
      then lockLoss (follow (.regRead P.regFault 1#8 [f]) u)
      else clearReason .err id (follow (.regRead P.regFault 1#8 [f]) u)) ∧
    chipPlays es (follow (.regRead P.regFault 1#8 [f]) u) = true := by
  subst hP
  obtain ⟨hRead, h⟩ := memReadByte_plays
    (fun f s => if lockLossCondition s.cfg s.blk.transceiverLocked f then lockLoss s else clearReason .err id s) h
  refine ⟨?_, h⟩
  rw [errBranch, lockFault, hRead, follow_cfg, follow_blk]

/-- Settles O26: the three conditions hold, so the branch ends with the loss of the lock. -/
theorem errorInterruptLosesLock : Obligations.ErrorInterruptLosesLock := by
  intro s x f hs hRx hErr hActive hMaster hLocked evs hp
  have hLost : lockLossCondition s.cfg s.blk.transceiverLocked f = true  :=
    (lockLossCondition_eq_true_iff ..).mpr ⟨hActive, hMaster, hLocked⟩
  refine exec_irq_of_branch hs (reasonOf_err hRx hErr) hp fun h => ?_
  refine (errBranch_plays (follow_cfg ..) h).1.trans ?_
  rw [follow_blk, if_pos hLost]
  rfl

/-- Settles O27: one of the three conditions fails, so the branch ends with the clearing. -/
theorem transientErrorIsOnlyCleared : Obligations.TransientErrorIsOnlyCleared := by
  intro s x f v rv hs hRx hErr hTransient evs hp
  have hKept : ¬ lockLossCondition s.cfg s.blk.transceiverLocked f = true := by
    intro hLost
    obtain ⟨hActive, hNotMaster, hLocked⟩ := (lockLossCondition_eq_true_iff ..).mp hLost
    rcases hTransient with hInactive | hMaster | hUnlocked
    · exact hActive hInactive
    · exact nomatch hNotMaster.symm.trans hMaster
    · exact nomatch hLocked.symm.trans hUnlocked
  refine exec_irq_of_branch hs (reasonOf_err hRx hErr) hp fun h => ?_
  obtain ⟨hBranch, h⟩ := errBranch_plays (P := s.cfg) (es := clearEvents s.cfg .err v rv) (follow_cfg ..) h
  rw [← List.append_nil (clearEvents s.cfg .err v rv)] at h
  refine hBranch.trans ?_
  rw [follow_blk, if_neg hKept, (clearReason_plays id (by simp) h).1]
  rfl

/-! ### The transmitted branch -/

/-- The event that reports the result of a request from the mailbox `mb` (45_request_tracking.md R222, R226, R228). -/
def requestResult (P : Params) (mb : List Byte) : ReqKind → Event
  | .alloc => .allocResult (allocDecode P (decodeFrame P mb).payload)
  | .getSource => .remoteSourceResult mb
  | .dealloc => .deallocResult { answer := deallocAnswer P (decodeFrame P mb).payload }

/-- The block with a request resolved from the mailbox `mb`: its flag is cleared and its result recorded (R222). -/
def resolvedBlock (P : Params) (mb : List Byte) (k : ReqKind) (b : Block) : Block :=
  match k with
  | .alloc =>
    { b with
      awaitAlloc := false
      allocResult := some (allocDecode P (decodeFrame P mb).payload)
      connectionLabel := some (allocDecode P (decodeFrame P mb).payload).connectionLabel }
  | .getSource => { b with awaitGetSource := false }
  | .dealloc =>
    { b with
      awaitDealloc := false
      connectionLabel :=
        if deallocAnswer P (decodeFrame P mb).payload = .grant then none else b.connectionLabel }

/-- Resolving a request is its update of the block and then its event. -/
theorem resolveWith_setAwait (k : ReqKind) (mb : List Byte) (s : State) :
    resolveWith k mb (setAwait k false s) =
      emit (requestResult s.cfg mb k) (onBlock (resolvedBlock s.cfg mb k) s) := by
  cases k with
  | alloc => rfl
  | getSource => rfl
  | dealloc =>
    simp only [resolveWith, recordDealloc_eq]
    rfl

theorem recordedAccess_requestResult (P : Params) (mb : List Byte) (k : ReqKind) :
    recordedAccess (requestResult P mb k) = none := by
  cases k <;> rfl

theorem resolvedBlock_trace_comm (P : Params) (mb : List Byte) (k : ReqKind) (b : Block) (tr : List Event) :
    resolvedBlock P mb k { b with trace := tr } = { resolvedBlock P mb k b with trace := tr } := by
  cases k <;> rfl

section

variable {P : Params} {u : State} {v rv : Byte} (hP : u.cfg = P)
include hP

/-- The clearing comes first, and the flags are looked at after it (R135). -/
theorem txBranch_clear_plays {es : List Event} (h : chipPlays (clearEvents P .tx v rv ++ es) u = true) :
    txBranch u = resolvePending (played (clearEvents P .tx v rv) u) ∧
    pendingRequest (played (clearEvents P .tx v rv) u).blk = pendingRequest u.blk ∧
    chipPlays es (played (clearEvents P .tx v rv) u) = true := by
  obtain ⟨hClear, h⟩ := clearReason_plays resolvePending hP h
  refine ⟨hClear, ?_, h⟩
  rw [played_blk]
  rfl

/-- With no flag set the mailbox is not read (R135, R136). -/
theorem txBranch_idle_plays (hNone : pendingRequest u.blk = none)
    (h : chipPlays (clearEvents P .tx v rv ++ [.messageSent]) u = true) :
    txBranch u = mpContinue (played (clearEvents P .tx v rv ++ [.messageSent]) u) := by
  obtain ⟨hClear, hPending, -⟩ := txBranch_clear_plays hP h
  rw [hClear, resolvePending, hPending, hNone, played_append]
  rfl

/-- The first pending request is resolved from the mailbox, then `MessageSent` and the continuation (R135, R136). -/
theorem txBranch_resolves_plays {k : ReqKind} {mb : List Byte} (hWf : P.wellFormed = true)
    (hk : pendingRequest u.blk = some k)
    (h : chipPlays (clearEvents P .tx v rv
      ++ [.regRead P.regMbox 20#8 mb, requestResult P mb k, .messageSent]) u = true) :
    txBranch u = mpContinue (onBlock (resolvedBlock P mb k) (played (clearEvents P .tx v rv
      ++ [.regRead P.regMbox 20#8 mb, requestResult P mb k, .messageSent]) u)) := by
  obtain ⟨hClear, hPending, h⟩ := txBranch_clear_plays hP h
  obtain ⟨hRead, -⟩ := memRead_plays (fun mb s => messageSent (resolveWith k mb (setAwait k false s)))
    (burstInBounds_mbox hWf) h
  have hEmit : ∀ t : State, emit (requestResult P mb k) t = follow (requestResult P mb k) t := fun t => by
    simp [follow, recordedAccess_requestResult]
  calc txBranch u
      = resolveRequest k messageSent (played (clearEvents P .tx v rv) u) := by
        rw [hClear, resolvePending, hPending, hk]
    _ = messageSent (emit (requestResult P mb k) (onBlock (resolvedBlock P mb k)
          (follow (.regRead P.regMbox 20#8 mb) (played (clearEvents P .tx v rv) u)))) := by
        rw [resolveRequest, played_cfg, hP, hRead, resolveWith_setAwait, follow_cfg, played_cfg, hP]
    _ = mpContinue (played [requestResult P mb k, .messageSent] (onBlock (resolvedBlock P mb k)
          (follow (.regRead P.regMbox 20#8 mb) (played (clearEvents P .tx v rv) u)))) := by
        rw [hEmit]
        rfl
    _ = _ := by
        rw [played_onBlock (resolvedBlock_trace_comm P mb k), played_append]
        rfl

end

/-- Settles O28: no flag is set, so no request is pending. -/
theorem transmitInterruptWithoutRequest : Obligations.TransmitInterruptWithoutRequest := by
  intro s x v rv hs hRx hErr hTx hAlloc hSource hDealloc evs hp
  refine exec_irq_of_branch hs (reasonOf_tx hRx hErr hTx) hp (txBranch_idle_plays (follow_cfg ..) ?_)
  simp [pendingRequest, follow_blk, hAlloc, hSource, hDealloc]

/-- Settles O29: the allocation is the first request, whatever other flags are set. -/
theorem transmitInterruptResolvesAllocation : Obligations.TransmitInterruptResolvesAllocation := by
  intro s x v rv mb hs hWf hRx hErr hTx hAlloc r evs hp
  refine exec_irq_of_branch hs (reasonOf_tx hRx hErr hTx) hp
    (txBranch_resolves_plays (k := .alloc) (follow_cfg ..) hWf ?_)
  simp [pendingRequest, follow_blk, hAlloc]

/-- Settles O30: the same rule for the second and the third request. -/
theorem transmitInterruptResolvesOtherRequests : Obligations.TransmitInterruptResolvesOtherRequests := by
  intro s x v rv mb hs hWf hRx hErr hTx hAlloc cleared source a release
  refine ⟨fun hSource hp => ?_, fun hSource hDealloc hp => ?_⟩
  · refine exec_irq_of_branch hs (reasonOf_tx hRx hErr hTx) hp
      (txBranch_resolves_plays (k := .getSource) (follow_cfg ..) hWf ?_)
    simp [pendingRequest, follow_blk, hAlloc, hSource]
  · refine exec_irq_of_branch hs (reasonOf_tx hRx hErr hTx) hp
      (txBranch_resolves_plays (k := .dealloc) (follow_cfg ..) hWf ?_)
    simp [pendingRequest, follow_blk, hAlloc, hSource, hDealloc]

/-! ### The network-changed branch -/

/-- Both position registers are read, cached and reported (R137). -/
theorem readPositions_plays {P : Params} {u : State} {p mx : Byte} (hP : u.cfg = P)
    (h : chipPlays [.regRead P.regNpr 1#8 [p], .regRead P.regMpr 1#8 [mx], .positionUpdate p mx] u = true) :
    readPositions u = onBlock (fun b => { b with nodePosition := some p, maxPosition := some mx })
      (played [.regRead P.regNpr 1#8 [p], .regRead P.regMpr 1#8 [mx], .positionUpdate p mx] u) := by
  subst hP
  obtain ⟨hNpr, h⟩ := memReadByte_plays (fun p s => memReadByte s.cfg.regMpr (fun mx s =>
    emit (.positionUpdate p mx)
      (onBlock (fun b => { b with nodePosition := some p, maxPosition := some mx }) s)) s) h
  obtain ⟨hMpr, -⟩ := memReadByte_plays (fun mx s => emit (.positionUpdate p mx)
    (onBlock (fun b => { b with nodePosition := some p, maxPosition := some mx }) s)) h
  rw [readPositions, hNpr, follow_cfg, hMpr]
  rfl

/-- A network change clears its reason and then does what the policy says with the positions. -/
theorem exec_irq_nc_plays {s : State} {x v rv : Byte} (hs : serving s = true) (hr : reasonOf s.cfg x = some .nc)
    (h : chipPlays (.regRead s.cfg.regStatus 1#8 [x] :: clearEvents s.cfg .nc v rv) s = true) :
    exec .irq s = .next (ncPositions
      (played (.regRead s.cfg.regStatus 1#8 [x] :: clearEvents s.cfg .nc v rv) s)) := by
  rw [← List.append_nil (clearEvents s.cfg .nc v rv)] at h
  exact exec_irq_of_branch hs hr h fun h => (clearReason_plays ncPositions (follow_cfg ..) h).1

/-- Settles O31: the policy, and under EITHER the draw. -/
theorem networkChangedInterruptResult : Obligations.NetworkChangedInterruptResult := by
  intro s x v rv p mx hs hRx hErr hTx hNc evs more keep hp
  have hIrq : exec .irq s = .next (ncPositions (played evs s)) :=
    exec_irq_nc_plays hs (reasonOf_nc hRx hErr hTx hNc) hp
  rw [hIrq]
  have hCfg : (played evs s).cfg = s.cfg := played_cfg evs s
  refine ⟨fun hNone => ?none, fun hRead hMore => ?read, fun hEither hDraw => ?drawnNone,
    fun hEither hDraw hMore => ?drawnRead⟩
  case none => simp only [ncPositions, hCfg, hNone]
  case read =>
    rw [ncPositions, hCfg, hRead]
    exact congrArg _ (readPositions_plays hCfg hMore)
  case drawnNone => simp [ncPositions, hEither, hDraw]
  case drawnRead =>
    have hTaken : (takeNcDraw (played evs s)).cfg = s.cfg := hCfg
    rw [ncPositions, hCfg, hEither]
    exact congrArg _ ((if_pos hDraw).trans (readPositions_plays hTaken hMore))

/-! ### The masks -/

/-- A clearing read-modify-write, bit by bit (41_register_transport.md R112). -/
theorem clearBits_getLsbD (v m : Byte) {j : Nat} (hj : j < 8) :
    (clearBits v m).getLsbD j = if m.getLsbD j then false else v.getLsbD j := by
  rw [clearBits, BitVec.getLsbD_and, BitVec.getLsbD_not, decide_eq_true hj]
  cases m.getLsbD j <;> simp

/-- A setting read-modify-write, bit by bit (R113). -/
theorem setBits_getLsbD (v m : Byte) (j : Nat) :
    (setBits v m).getLsbD j = if m.getLsbD j then true else v.getLsbD j := by
  rw [setBits, BitVec.getLsbD_or]
  cases m.getLsbD j <;> simp

/-- Settles O34: each polarity chooses the clearing or the setting form. -/
theorem readModifyWriteTouchesOnlyMaskBits : Obligations.ReadModifyWriteTouchesOnlyMaskBits := by
  intro P k v j hj
  constructor
  · cases hPol : P.clrPolarity with
    | writeZero => simp [clearedReason, hPol, clearBits_getLsbD v _ hj]
    | writeOne => simp [clearedReason, hPol, setBits_getLsbD]
  · cases hPol : P.rbePolarity with
    | set => simp [reenabled, hPol, setBits_getLsbD]
    | clear => simp [reenabled, hPol, clearBits_getLsbD v _ hj]

/-! ### No watch, and the frame -/

/-- Settles O24: the invariants leave only Resetting for a block with no watch that is neither Off nor Fatal. -/
theorem unwatchedInterruptIsIgnored : Obligations.UnwatchedInterruptIsIgnored := by
  intro s hf hOff hNone
  constructor
  · have hIgnored : interrupt s = emit (.log .irqIgnored) s := by simp [interrupt, hOff, hNone]
    exact (unlessFatal_live hf).trans (congrArg _ hIgnored)
  · intro h
    have hOneShot := h.oneShot_iff_awaiting hf
    have hSteady := h.steady_iff_operational hf
    rw [hNone] at hOneShot hSteady
    cases hb : s.blk.bringup with
    | off => exact absurd hb hOff
    | fatal => exact absurd hb hf
    | configuring => exact absurd hb h.never_configuring
    | awaitingFirstInterrupt => exact nomatch hOneShot.mpr hb
    | operational => exact nomatch hSteady.mpr hb
    | resetting => rfl

/-- What an interrupt of `s` leaves as it is in `t`, and the flags it may only clear. But for the first interrupt, which
awaits a deallocation and arms the steady-state handler (70_reset_and_hazards.md R272, R274), that includes the armed
handler and every timeout. -/
structure IrqFrame (s t : State) : Prop where
  cfg : t.cfg = s.cfg
  program : t.env.program = s.env.program
  resetLine : t.blk.resetLine = s.blk.resetLine
  settleArmed : t.blk.settleArmed = s.blk.settleArmed
  allocTimers : t.blk.reqTimers.alloc = s.blk.reqTimers.alloc
  getSourceTimers : t.blk.reqTimers.getSource = s.blk.reqTimers.getSource
  awaitAlloc : s.blk.awaitAlloc = false → t.blk.awaitAlloc = false
  awaitGetSource : s.blk.awaitGetSource = false → t.blk.awaitGetSource = false
  steady : s.blk.irqArmed ≠ .oneShot →
    t.blk.irqArmed = s.blk.irqArmed ∧ t.blk.reqTimers = s.blk.reqTimers ∧
    (s.blk.awaitDealloc = false → t.blk.awaitDealloc = false)

namespace IrqFrame

variable {s t : State}

theorem refl (s : State) : IrqFrame s s := ⟨rfl, rfl, rfl, rfl, rfl, rfl, id, id, fun _ => ⟨rfl, rfl, id⟩⟩

/-- A flag of any kind may be cleared. -/
theorem clearAwait (h : IrqFrame s t) (k : ReqKind) : IrqFrame s (setAwait k false t) := by
  cases k with
  | alloc => exact { h with awaitAlloc := fun _ => rfl }
  | getSource => exact { h with awaitGetSource := fun _ => rfl }
  | dealloc =>
    exact { h with
      steady := fun hs =>
        have ⟨hArmed, hTimers, _⟩ := h.steady hs
        ⟨hArmed, hTimers, fun _ => rfl⟩ }

theorem resolveWith (h : IrqFrame s t) (k : ReqKind) (mb : List Byte) : IrqFrame s (resolveWith k mb t) := by
  obtain ⟨e, label, result, he⟩ := resolveWith_eq_emit k mb t
  rw [he]
  exact { h with }

/-- No effect of an interrupt leaves the frame. -/
theorem interruptKeeps (s : State) : InterruptKeeps (IrqFrame s) where
  fault _ _ h := { h with }
  refused _ _ h := { h with }
  reply _ h := { h with }
  event _ _ _ h := { h with }
  ncDrawn _ h := { h with }
  gateDrawn _ h := { h with }
  session _ _ _ h := { h with }
  positions _ _ _ h := { h with }
  lost _ _ h := { h.1 with }
  resolved _ k mb _ _ h := (h.1.clearAwait k).resolveWith k mb

theorem relock (h : Live (IrqFrame s) t) : IrqFrame s (relock t) :=
  (interruptKeeps s).bus.clearReason (k := fun t => disarm .lockPoll (setLocked true t))
    (fun _ hu => { hu.1 with }) _ ⟨{ h.1 with }, h.2⟩

/-- The first interrupt changes the mode and awaits a deallocation, which the frame leaves to it. -/
theorem firstInterrupt (ha : s.blk.irqArmed = .oneShot) : IrqFrame s (firstInterrupt s) :=
  (interruptKeeps s).firstInterrupt { refl s with steady := fun hs => absurd ha hs }
    (fun _ hu => { hu.1 with steady := fun hs => absurd ha hs }) (fun _ _ hu => relock hu)
    (fun _ _ hu => { hu.1 with })

/-- Refused, ignored, the first one or serviced (42_interrupt_dispatch.md R130, R141). -/
theorem interrupt (hf : s.blk.bringup ≠ .fatal) : IrqFrame s (interrupt s) := by
  have hRefl := refl s
  unfold Machine.interrupt
  split
  · exact { hRefl with }
  · split
    · exact { hRefl with }
    · next ha => exact firstInterrupt ha
    · exact (interruptKeeps s).dispatch ⟨hRefl, hf⟩

end IrqFrame

/-- Settles O35: the frame of every kind of interrupt. -/
theorem interruptFrame : Obligations.InterruptFrame := by
  intro s t h
  obtain ⟨hf, rfl⟩ := unlessFatal_next h
  have hFrame := IrqFrame.interrupt hf
  exact ⟨hFrame.cfg, hFrame.program, hFrame.resetLine, hFrame.settleArmed, hFrame.allocTimers,
    hFrame.getSourceTimers, hFrame.awaitAlloc, hFrame.awaitGetSource, hFrame.steady⟩

end Sys2Proof.Machine
end

section
/-! Sending and the frame codec (43_frame_codec.md R160 to R178): an admitted SEND, a continuation with and
without lock, the partition of a multi-part payload, and the round trip of a single frame. -/

namespace Sys2Proof.Machine

/-! ### An admitted SEND -/

section

variable {s : State} {h : Header} {p : List Byte} (hFatal : s.blk.bringup ≠ .fatal) (hOff : s.blk.bringup ≠ .off)
include hFatal hOff

/-- Outside Fatal and Off a payload that can be encoded comes to the gate (R160, R161). -/
theorem exec_send_gate (hLen : p.length ≤ 4095) :
    exec (.send ⟨h, p⟩) s = .next (if s.blk.transceiverLocked = false then emit (.log .dropUnlocked) s
      else if p.length ≤ 12 then sendSingle h p s else startMultiPart h p s) :=
  (unlessFatal_live hFatal).trans
    (congrArg Host.Outcome.next ((if_neg (not_lt.mpr hLen)).trans (if_neg hOff)))

theorem exec_send_unlocked (hLen : p.length ≤ 4095) (hLock : s.blk.transceiverLocked = false) :
    exec (.send ⟨h, p⟩) s = .next (emit (.log .dropUnlocked) s) := by
  rw [exec_send_gate hFatal hOff hLen, if_pos hLock]

theorem exec_send_single (hLock : s.blk.transceiverLocked = true) (hLen : p.length ≤ 12) :
    exec (.send ⟨h, p⟩) s = .next (sendSingle h p s) := by
  rw [exec_send_gate hFatal hOff (by omega), if_neg (by simp [hLock]), if_pos hLen]

theorem exec_send_multiPart (hLock : s.blk.transceiverLocked = true) (hMin : 13 ≤ p.length)
    (hMax : p.length ≤ 4095) : exec (.send ⟨h, p⟩) s = .next (startMultiPart h p s) := by
  rw [exec_send_gate hFatal hOff hMax, if_neg (by simp [hLock]), if_neg (by omega)]

end

theorem startMultiPart_idle {s : State} (hIdle : s.blk.mpSession = none) (h : Header) (p : List Byte) :
    startMultiPart h p s = setSession (some ⟨h, p.drop 11, 1⟩) (sendFrame h 1 (0 :: p.take 11) s) := by
  simp only [startMultiPart, hIdle, chunkBytes]

theorem startMultiPart_busy {s : State} {ses : Session} (hBusy : s.blk.mpSession = some ses) (h : Header)
    (p : List Byte) : startMultiPart h p s = raiseFault .mpOverlap s := by
  simp only [startMultiPart, hBusy]

/-- Settles O36: the gate of R161. -/
theorem sendWhileUnlockedIsDropped : Obligations.SendWhileUnlockedIsDropped :=
  fun _ _ hFatal hOff hLen hLock => exec_send_unlocked hFatal hOff hLen hLock

/-- The telegram id 0 leaves the telegram byte to the length (R178). -/
theorem telegramByte_zero {len : Nat} (h : len < 16) : telegramByte 0 len = BitVec.ofNat 8 len := by
  simpa using telegramByte_eq_ofNat 0 h

/-- Settles O37: one frame, whose telegram byte is the length. -/
theorem singleFrameSend : Obligations.SingleFrameSend := by
  intro s h d hFatal hOff hLock hLen
  exact ⟨exec_send_single hFatal hOff hLock hLen, congrArg some (telegramByte_zero (by omega))⟩

/-- Settles O38: a session starts with the rest of the payload. -/
theorem multiPartSendStartsSession : Obligations.MultiPartSendStartsSession := by
  intro s h p hFatal hOff hLock hIdle hMin hMax
  rw [exec_send_multiPart hFatal hOff hLock hMin hMax, startMultiPart_idle hIdle]
  rfl

/-- Settles O39: the session in progress makes the request a fault. -/
theorem overlappingMultiPartSendFaults : Obligations.OverlappingMultiPartSendFaults := by
  intro s h p ses hFatal hOff hLock hBusy hMin hMax
  rw [exec_send_multiPart hFatal hOff hLock hMin hMax, startMultiPart_busy hBusy]
  rfl

/-! ### A continuation -/

/-- The chunk that empties the payload has id 3 (R168). -/
theorem nextChunk_terminal {ses : Session} (h : ses.remaining.length ≤ 11) :
    nextChunk ses = ⟨ses.seq :: ses.remaining, 3, []⟩ := by
  simp [nextChunk, chunkBytes, List.drop_eq_nil_of_le h, List.take_of_length_le h]

/-- Every other continuation chunk has id 2 and 11 bytes (R167). -/
theorem nextChunk_interior {ses : Session} (h : 11 < ses.remaining.length) :
    nextChunk ses = ⟨ses.seq :: ses.remaining.take 11, 2, ses.remaining.drop 11⟩ := by
  have hRest : ses.remaining.drop 11 ≠ [] := by simpa using h
  simp [nextChunk, chunkBytes, hRest]

section

variable {s : State}

theorem mpContinue_idle (hIdle : s.blk.mpSession = none) : mpContinue s = s := by
  simp only [mpContinue, hIdle]

variable {ses : Session} (hSession : s.blk.mpSession = some ses)
include hSession

theorem mpContinue_unlocked (hLock : s.blk.transceiverLocked = false) : mpContinue s = mpGated ses s := by
  simp only [mpContinue, hSession, hLock, if_true]

theorem mpContinue_terminal (hLock : s.blk.transceiverLocked = true) (hLen : ses.remaining.length ≤ 11) :
    mpContinue s = setSession none (sendFrame ses.hdr 3 (ses.seq :: ses.remaining) s) := by
  simp [mpContinue, hSession, hLock, sessionAfter_terminal hLen, nextChunk_terminal hLen]

theorem mpContinue_interior (hLock : s.blk.transceiverLocked = true) (hLen : 11 < ses.remaining.length) :
    mpContinue s = setSession (some ⟨ses.hdr, ses.remaining.drop 11, ses.seq + 1⟩)
      (sendFrame ses.hdr 2 (ses.seq :: ses.remaining.take 11) s) := by
  simp [mpContinue, hSession, hLock, sessionAfter_interior hLen, nextChunk_interior hLen]

end

/-- Settles O40: the chunk empties the payload exactly when at most 11 bytes remain. -/
theorem continuationSendsOneChunk : Obligations.ContinuationSendsOneChunk := by
  intro s
  refine ⟨mpContinue_idle, fun ses hSession hLock => ⟨fun hLen => ?terminal, fun hLen => ?interior⟩⟩
  case terminal => exact mpContinue_terminal hSession hLock hLen
  case interior =>
    have hSeq : BitVec.ofNat 8 (ses.seq.toNat + 1) = ses.seq + 1 := by
      rw [BitVec.ofNat_add, BitVec.ofNat_toNat, BitVec.setWidth_eq]
      rfl
    rw [hSeq]
    exact mpContinue_interior hSession hLock hLen

/-- The session a chunk leaves, by how much remained (R169, R170). -/
theorem sessionAfter_eq_ite (ses : Session) :
    sessionAfter ses =
      if ses.remaining.length ≤ 11 then none else some ⟨ses.hdr, ses.remaining.drop 11, ses.seq + 1⟩ := by
  split
  · next hLen => exact sessionAfter_terminal hLen
  · next hLen => exact sessionAfter_interior (not_le.mp hLen)

/-- Settles O41: the policy names the arm, or the draw does. -/
theorem gatedContinuationFollowsPolicy : Obligations.GatedContinuationFollowsPolicy := by
  intro s ses hSession hLock result
  have hArm : ∀ arm u, gatedArm arm ses u = result arm u := by
    intro arm u
    cases arm with
    | advance => rw [gatedArm, sessionAfter_eq_ite]; rfl
    | hold => rfl
    | abort => rfl
  rw [mpContinue_unlocked hSession hLock]
  refine ⟨fun arm hFixed => ?_, fun hEither => ?_⟩
  · simp only [mpGated, hFixed, hArm]
  · simp only [mpGated, hEither, hArm]

/-! ### The partition of a multi-part payload -/

@[simp] theorem frames_append (tr tr' : List Event) : frames (tr ++ tr') = frames tr ++ frames tr' :=
  List.filterMap_append

@[simp] theorem frames_nil : frames [] = [] := rfl

@[simp] theorem frames_messageSent_cons (tr : List Event) : frames (.messageSent :: tr) = frames tr := rfl

@[simp] theorem frames_frameOut_cons (f : List Byte) (tr : List Event) :
    frames (.frameOut f :: tr) = f :: frames tr := rfl

/-- Consecutive chunks join to the start of the payload. -/
theorem flatten_chunks (p : List Byte) (n : Nat) :
    ((List.range n).map fun i => (p.drop (11 * i)).take 11).flatten = p.take (11 * n) := by
  induction n with
  | zero => simp
  | succ n ih => simp [List.range_succ, ih, Nat.mul_succ, List.take_add]

/-- The frames of the first `n` chunks, of all of them if there are fewer (R172). -/
def chunkFrames (P : Params) (h : Header) (p : List Byte) (n : Nat) : List (List Byte) :=
  (List.range (min n (chunkCount p.length))).map (chunkFrame P h p)

/-- The session when the first `i` chunks have left: none after the last one (R169, R170). -/
def sessionAt (h : Header) (p : List Byte) (i : Nat) : Option Session :=
  if chunkCount p.length ≤ i then none else some ⟨h, p.drop (11 * i), BitVec.ofNat 8 i⟩

section

variable {P : Params} {h : Header} {p : List Byte} {i : Nat}

theorem chunkFrames_zero : chunkFrames P h p 0 = [] := by
  simp [chunkFrames]

theorem chunkFrames_succ (hi : i < chunkCount p.length) :
    chunkFrames P h p (i + 1) = chunkFrames P h p i ++ [chunkFrame P h p i] := by
  rw [chunkFrames, chunkFrames, Nat.min_eq_left hi, Nat.min_eq_left hi.le, List.range_succ, List.map_append]
  rfl

theorem chunkFrames_of_le (hi : chunkCount p.length ≤ i) : chunkFrames P h p (i + 1) = chunkFrames P h p i := by
  rw [chunkFrames, chunkFrames, Nat.min_eq_right hi, Nat.min_eq_right (by omega)]

theorem sessionAt_eq_none_iff : sessionAt h p i = none ↔ chunkCount p.length ≤ i := by
  simp [sessionAt]

theorem sessionAt_of_lt (hi : i < chunkCount p.length) :
    sessionAt h p i = some ⟨h, p.drop (11 * i), BitVec.ofNat 8 i⟩ := if_neg (not_le.mpr hi)

/-- With the chunks before `i` gone, at most 11 bytes remain exactly at the last chunk (R168). -/
theorem drop_length_le_iff (hi : i < chunkCount p.length) :
    (p.drop (11 * i)).length ≤ 11 ↔ i + 1 = chunkCount p.length := by
  rw [List.length_drop]
  unfold chunkCount at *
  omega

theorem chunkFrame_zero : chunkFrame P h p 0 = buildFrame P h 1 (0 :: p.take 11) := rfl

theorem chunkFrame_terminal (hPos : 0 < i) (hi : i + 1 = chunkCount p.length) :
    chunkFrame P h p i = buildFrame P h 3 (BitVec.ofNat 8 i :: p.drop (11 * i)) := by
  have hLen : (p.drop (11 * i)).length ≤ 11 := (drop_length_le_iff (by omega)).mpr hi
  rw [chunkFrame, if_neg (by omega), if_pos hi, List.take_of_length_le hLen]

theorem chunkFrame_interior (hPos : 0 < i) (hi : i + 1 ≠ chunkCount p.length) :
    chunkFrame P h p i = buildFrame P h 2 (BitVec.ofNat 8 i :: (p.drop (11 * i)).take 11) := by
  rw [chunkFrame, if_neg (by omega), if_neg hi]

/-- A continuation sends chunk `i` and leaves the session of the chunks after it. -/
theorem mpContinue_sends_chunk {u : State} (hPos : 0 < i) (hi : i < chunkCount p.length)
    (hLock : u.blk.transceiverLocked = true) (hSession : u.blk.mpSession = sessionAt h p i) :
    mpContinue u = setSession (sessionAt h p (i + 1)) (emit (.frameOut (chunkFrame u.cfg h p i)) u) := by
  rw [sessionAt_of_lt hi] at hSession
  by_cases hLast : i + 1 = chunkCount p.length
  · rw [mpContinue_terminal hSession hLock ((drop_length_le_iff hi).mpr hLast), chunkFrame_terminal hPos hLast,
      sessionAt_eq_none_iff.mpr hLast.ge]
    rfl
  · have hLong : 11 < (p.drop (11 * i)).length := not_le.mp fun hLen => hLast ((drop_length_le_iff hi).mp hLen)
    rw [mpContinue_interior hSession hLock hLong, chunkFrame_interior hPos hLast,
      sessionAt_of_lt (by omega), List.drop_drop, Nat.mul_succ, BitVec.ofNat_add]
    rfl

/-- Since `s` the first `i` chunks of the payload have left, and the block is still locked. -/
structure ChunksSent (s : State) (h : Header) (p : List Byte) (i : Nat) (u : State) : Prop where
  cfg : u.cfg = s.cfg
  locked : u.blk.transceiverLocked = true
  session : u.blk.mpSession = sessionAt h p i
  sent : frames u.blk.trace = frames s.blk.trace ++ chunkFrames s.cfg h p i

variable {s t u : State}

/-- The SEND step sends chunk 0 (R166). -/
theorem ChunksSent.of_exec_send (hOff : s.blk.bringup ≠ .off) (hLock : s.blk.transceiverLocked = true)
    (hIdle : s.blk.mpSession = none) (hMin : 13 ≤ p.length) (hMax : p.length ≤ 4095)
    (hSend : exec (.send ⟨h, p⟩) s = .next t) : ChunksSent s h p 1 t := by
  have hFatal := (unlessFatal_next hSend).1
  have hCount : 1 < chunkCount p.length := by unfold chunkCount; omega
  rw [exec_send_multiPart hFatal hOff hLock hMin hMax, startMultiPart_idle hIdle] at hSend
  cases hSend
  exact {
    cfg := rfl
    locked := hLock
    session := (sessionAt_of_lt hCount).symm
    sent := by simp [sendFrame, chunkFrames_succ (zero_lt_one.trans hCount), chunkFrames_zero, chunkFrame_zero] }

/-- Each `MessageSent` sends the next chunk, if there is one (R169). -/
theorem ChunksSent.messageSent (hu : ChunksSent s h p i u) (hPos : 0 < i) :
    ChunksSent s h p (i + 1) (messageSent u) := by
  obtain ⟨hCfg, hLock, hSession, hSent⟩ := hu
  by_cases hi : chunkCount p.length ≤ i
  · have hIdle : sessionAt h p i = none := sessionAt_eq_none_iff.mpr hi
    have hNext : sessionAt h p (i + 1) = none := sessionAt_eq_none_iff.mpr (by omega)
    have hSame : Machine.messageSent u = emit .messageSent u := mpContinue_idle (hSession.trans hIdle)
    rw [hSame]
    exact {
      cfg := hCfg
      locked := hLock
      session := (hSession.trans hIdle).trans hNext.symm
      sent := by simp [hSent, chunkFrames_of_le hi] }
  · have hMore := not_le.mp hi
    have hSends : Machine.messageSent u = setSession (sessionAt h p (i + 1))
        (emit (.frameOut (chunkFrame u.cfg h p i)) (emit .messageSent u)) :=
      mpContinue_sends_chunk hPos hMore hLock hSession
    rw [hSends]
    exact {
      cfg := hCfg
      locked := hLock
      session := rfl
      sent := by simp [hSent, hCfg, chunkFrames_succ hMore] }

theorem ChunksSent.continuations (hu : ChunksSent s h p i u) (hPos : 0 < i) (j : Nat) :
    ChunksSent s h p (j + i) (continuations j u) := by
  induction j generalizing i u with
  | zero => rwa [Nat.zero_add]
  | succ j ih =>
    rw [Nat.add_right_comm]
    exact ih (hu.messageSent hPos) (by omega)

end

/-- Settles O42: chunk 0 leaves with the SEND, one more with each continuation, and `ceil(L/11)` of them are the
payload. -/
theorem multiPartPayloadIsPartitioned : Obligations.MultiPartPayloadIsPartitioned := by
  intro s t h p hOff hLock hIdle hMin hMax hSend
  refine ⟨fun j => ?_, ?join⟩
  · have hChunks := (ChunksSent.of_exec_send hOff hLock hIdle hMin hMax hSend).continuations one_pos j
    exact ⟨hChunks.sent, hChunks.session ▸ sessionAt_eq_none_iff⟩
  case join =>
    rw [flatten_chunks, List.take_of_length_le]
    unfold chunkCount
    omega

/-! ### The round trip of a single frame -/

/-- The slot without its start byte is a 20-byte buffer, and a single frame's byte 7 is the length (R177). -/
theorem buildFrame_drop_one (P : Params) (h : Header) {d : List Byte} (hd : d.length ≤ 12) :
    (buildFrame P h 0 d).drop 1 =
      P.txReservedByte :: h.tH :: h.tL :: h.fb :: h.inst :: BitVec.ofNat 8 (h.fn.toNat / 16) ::
        BitVec.ofNat 8 (16 * (h.fn.toNat % 16) + h.op.toNat) :: BitVec.ofNat 8 d.length ::
        (d ++ List.replicate (12 - d.length) 0) := by
  rw [← hiByte_packFnOp, ← loByte_packFnOp, ← telegramByte_zero (by omega)]
  rfl

/-- Settles O45: the inbound layout (O44) of the outbound slot. -/
theorem frameRoundTrip : Obligations.FrameRoundTrip := by
  intro P h d hd m padded
  have hPadded : padded.length = 12 := by simp [padded, hd]
  have hFields := inboundBufferFields P P.txReservedByte h.tH h.tL h.fb h.inst (BitVec.ofNat 8 (h.fn.toNat / 16))
    (BitVec.ofNat 8 (16 * (h.fn.toNat % 16) + h.op.toNat)) (BitVec.ofNat 8 d.length) padded hPadded
  rw [← buildFrame_drop_one P h hd] at hFields
  obtain ⟨hHigh, hLow, hFb, hInst, hFn, hOp, hTid, hLen, hPayload⟩ := hFields
  have hFnBound := h.fn.isLt
  have hOpBound := h.op.isLt
  simp only [BitVec.toNat_ofNat] at hFn hOp hTid hLen
  have hTake : padded.take (min d.length 11) = d.take 11 := by
    rw [List.take_append_of_le_length (Nat.min_le_left ..), List.take_eq_take_iff]
    omega
  refine ⟨hFb, hInst, BitVec.eq_of_toNat_eq (hFn.trans (by omega)), BitVec.eq_of_toNat_eq (hOp.trans (by omega)),
    BitVec.eq_of_toNat_eq (hTid.trans (Nat.div_eq_of_lt (by omega))),
    BitVec.eq_of_toNat_eq (hLen.trans (Nat.mod_mod_of_dvd _ (by decide))), hHigh, hLow, hPayload, ?common, ?whole⟩
  case common =>
    rw [hPayload]
    split
    · rwa [List.take_take, Nat.min_eq_left (Nat.min_le_right ..)]
    · exact hTake
  case whole =>
    intro hFull hPlain
    rw [hPayload, if_neg (by simp [hPlain])]
    simp [padded, hFull]

end Sys2Proof.Machine
end

section
/-! The lock monitor (44_lock_monitor.md R203 to R209): what a lock check does when the chip answers it, at a lock poll
and at the end of bring-up, and the history of the lock events between RESETs. -/

namespace Sys2Proof.Machine

/-! ### An answered lock check -/

/-- Both bytes indicate lock, under each polarity (R204). -/
theorem bothLocked_eq_true_iff (P : Params) (p q : Byte) :
    bothLocked P p q = true ↔
      P.lockPolarity = .lockedWhenClear ∧ p &&& P.mPll = 0 ∧ q &&& P.mFreq = 0 ∨
      P.lockPolarity = .lockedWhenSet ∧ p &&& P.mPll = P.mPll ∧ q &&& P.mFreq = P.mFreq := by
  unfold bothLocked
  cases P.lockPolarity <;> simp

/-- One of the bytes does not, under each polarity. -/
theorem bothLocked_eq_false_iff (P : Params) (p q : Byte) :
    bothLocked P p q = false ↔
      P.lockPolarity = .lockedWhenClear ∧ (p &&& P.mPll ≠ 0 ∨ q &&& P.mFreq ≠ 0) ∨
      P.lockPolarity = .lockedWhenSet ∧ (p &&& P.mPll ≠ P.mPll ∨ q &&& P.mFreq ≠ P.mFreq) := by
  rw [← Bool.not_eq_true, bothLocked_eq_true_iff]
  cases P.lockPolarity <;> simp [imp_iff_not_or]

/-- The block after a relock: locked, and the poll stopped (R205). -/
def relockedBlock (b : Block) : Block := { b with transceiverLocked := true, lockPollActive := false }

section

variable {P : Params} {s : State} {p q : Byte} {k : Bool → State → State} (hP : s.cfg = P)
include hP

/-- A lock check that finds the lock relocks (R205 to R207). -/
theorem lockEval_relocks {v rx : Byte} (hk : ∀ u, k true u = relock u) (hLock : bothLocked P p q = true)
    (h : chipPlays (evalEvents P p q ++ .locked :: clearEvents P .err v rx) s = true) :
    lockEval k s = onBlock relockedBlock (played (evalEvents P p q ++ .locked :: clearEvents P .err v rx) s) := by
  obtain ⟨hEval, h⟩ := lockEval_plays k hP h
  rw [hEval, hLock, hk, relock_plays (by simpa using hP) h, played_append]
  rfl

/-- A lock check that finds no lock goes on with that answer. -/
theorem lockEval_unlocked (hLock : bothLocked P p q = false) (h : chipPlays (evalEvents P p q) s = true) :
    lockEval k s = k false (played (evalEvents P p q) s) := by
  rw [← List.append_nil (evalEvents P p q)] at h
  rw [(lockEval_plays k hP h).1, hLock]

/-- The lock check of bring-up relocks where it finds the lock (R207). -/
theorem bringupLockCheck_relocks {v rx : Byte} (hLock : bothLocked P p q = true)
    (h : chipPlays (evalEvents P p q ++ .locked :: clearEvents P .err v rx) s = true) :
    bringupLockCheck s = onBlock relockedBlock (played (evalEvents P p q ++ .locked :: clearEvents P .err v rx) s) :=
  lockEval_relocks hP (fun _ => rfl) hLock h

/-- Without lock it arms the poll if BRINGUP_STARTS_POLL (R207). -/
theorem bringupLockCheck_unlocked (hLock : bothLocked P p q = false) (h : chipPlays (evalEvents P p q) s = true) :
    bringupLockCheck s =
      onBlock (fun b => { b with lockPollActive := P.bringupStartsPoll || b.lockPollActive })
        (played (evalEvents P p q) s) := by
  refine (lockEval_unlocked hP hLock h).trans ?_
  rw [if_neg Bool.false_ne_true, played_cfg, hP]
  cases P.bringupStartsPoll <;> rfl

end

/-- Settles O46: an armed poll is a lock check that does nothing without lock. -/
theorem lockPollResult : Obligations.LockPollResult := by
  intro s p q v rx hFatal hOff hPoll evs relocked
  rw [exec_tickLockPoll_armed hFatal hOff hPoll, ← bothLocked_eq_true_iff, ← bothLocked_eq_false_iff]
  refine ⟨fun hLock hp => ?_, fun hLock hp => ?_⟩
  · have hEvents : relocked = evalEvents s.cfg p q ++ .locked :: clearEvents s.cfg .err v rx := rfl
    rw [hEvents] at hp ⊢
    exact congrArg _ (lockEval_relocks rfl (fun _ => rfl) hLock hp)
  · exact congrArg _ (lockEval_unlocked rfl hLock hp)

/-! ### The first interrupt -/

/-- A first interrupt whose table writes the chip answers comes to the lock check, and the chip goes on answering there
(70_reset_and_hazards.md R272 to R274). -/
theorem exec_irq_watching_plays {s : State} {rxs : List Byte} {es : List Event} (hs : watching s = true)
    (hl : rxs.length = s.cfg.configTable.length)
    (h : chipPlays (tableEvents s.cfg.configTable rxs ++ [.allocPortReq .deallocAll broadcastLabel] ++ es) s = true) :
    exec .irq s = .next (bringupLockCheck (onBlock configuredBlock
      (played (tableEvents s.cfg.configTable rxs ++ [.allocPortReq .deallocAll broadcastLabel]) s))) ∧
    chipPlays es (onBlock configuredBlock
      (played (tableEvents s.cfg.configTable rxs ++ [.allocPortReq .deallocAll broadcastLabel]) s)) = true := by
  rw [chipPlays_append, Bool.and_eq_true] at h
  obtain ⟨hTable, hMore⟩ := h
  rw [exec_irq_watching hs, firstInterrupt_plays hl hTable, chipPlays_onBlock fun _ _ => rfl]
  exact ⟨rfl, hMore⟩

/-- Settles O15: the table, and then a lock check that arms the poll without lock if the parameters say so. -/
theorem firstInterruptConfiguresTheChip : Obligations.FirstInterruptConfiguresTheChip := by
  intro s rxs p q v rx hs hl evs relocked
  refine ⟨fun hLock hp => ?locked, fun hLock hp => ?unlocked⟩
  case locked =>
    have hEvents : relocked = tableEvents s.cfg.configTable rxs ++ [.allocPortReq .deallocAll broadcastLabel] ++
        (evalEvents s.cfg p q ++ .locked :: clearEvents s.cfg .err v rx) := by
      simp [relocked, evs]
    rw [hEvents] at hp ⊢
    obtain ⟨hIrq, hCheck⟩ := exec_irq_watching_plays hs hl hp
    rw [hIrq, bringupLockCheck_relocks (by simp) hLock hCheck, played_onBlock fun _ _ => rfl, ← played_append]
    rfl
  case unlocked =>
    obtain ⟨hIrq, hCheck⟩ := exec_irq_watching_plays hs hl hp
    rw [hIrq, bringupLockCheck_unlocked (by simp) hLock hCheck, played_onBlock fun _ _ => rfl, ← played_append]
    rfl

/-! ### The lock history -/

@[simp] theorem lockHistory_append_singleton (trace : List Event) (e : Event) :
    lockHistory (trace ++ [e]) = lockEvent (lockHistory trace) e := by
  simp [lockHistory]

/-- Only the two lock events and a RESET say something of the lock (R209, 70_reset_and_hazards.md R270). -/
theorem lockEvent_eq_self {e : Event} (hLocked : e ≠ .locked) (hUnlocked : e ≠ .unlocked)
    (hReset : e ≠ .resetLine .deasserted) (now : Option Bool) : lockEvent now e = now := by
  unfold lockEvent
  split
  · exact absurd rfl hLocked
  · exact absurd rfl hUnlocked
  · exact absurd rfl hLocked
  · exact absurd rfl hUnlocked
  · exact absurd rfl hReset
  · rfl

theorem lockEvent_of_plainEvent {e : Event} (he : plainEvent e = true) (now : Option Bool) : lockEvent now e = now :=
  lockEvent_eq_self (by rintro rfl; cases he) (by rintro rfl; cases he) (by rintro rfl; cases he) now

/-- Any other event leaves what the lock events say. -/
theorem lockHistory_emit {s : State} {e : Event} (he : ∀ now, lockEvent now e = now) :
    lockHistory (emit e s).blk.trace = lockHistory s.blk.trace := by
  rw [emit_blk_trace, lockHistory_append_singleton, he]

/-- What the flag says is what the lock events say. -/
theorem lockHistoryInv_of_eq {s : State} (h : lockHistory s.blk.trace = some s.blk.transceiverLocked) :
    LockHistoryInv s := ⟨_, h, fun _ => rfl⟩

/-- Outside Fatal the lock events say what the flag says. -/
theorem LockHistoryInv.eq_locked {s : State} (h : Live LockHistoryInv s) :
    lockHistory s.blk.trace = some s.blk.transceiverLocked := by
  obtain ⟨⟨l, hl, hFlag⟩, hFatal⟩ := h
  rw [hl, hFlag hFatal]

theorem LockHistoryInv.emit {s : State} {e : Event} (h : LockHistoryInv s) (he : ∀ now, lockEvent now e = now) :
    LockHistoryInv (emit e s) := by
  obtain ⟨l, hl, hFlag⟩ := h
  exact ⟨l, (lockHistory_emit he).trans hl, hFlag⟩

theorem LockHistoryInv.raiseFault {s : State} (h : LockHistoryInv s) (c : FaultCode) :
    LockHistoryInv (raiseFault c s) := by
  obtain ⟨l, hl, -⟩ := h
  exact ⟨l, hl, fun hf => absurd rfl hf⟩

theorem LockHistoryInv.setAwait {s : State} (h : LockHistoryInv s) (k : ReqKind) (v : Bool) :
    LockHistoryInv (setAwait k v s) := by
  cases k <;> exact h

/-- The result of a request is no lock event (45_request_tracking.md R222). -/
theorem LockHistoryInv.resolveWith {s : State} (h : LockHistoryInv s) (k : ReqKind) (mb : List Byte) :
    LockHistoryInv (resolveWith k mb s) := by
  cases k with
  | alloc => exact LockHistoryInv.emit (s := recordAlloc _ s) h (lockEvent_eq_self nofun nofun nofun)
  | getSource => exact h.emit (lockEvent_eq_self nofun nofun nofun)
  | dealloc =>
    simp only [Machine.resolveWith, recordDealloc_eq]
    exact LockHistoryInv.emit (s := onBlock _ s) h (lockEvent_eq_self nofun nofun nofun)

/-- A loss of a lock says unlocked, and so does the flag (R203). -/
theorem LockHistoryInv.lockLoss {s : State} (h : Live LockHistoryInv s) (hl : s.blk.transceiverLocked = true) :
    LockHistoryInv (lockLoss s) := by
  refine lockHistoryInv_of_eq ?_
  show lockHistory (s.blk.trace ++ [.unlocked]) = some false
  rw [lockHistory_append_singleton, eq_locked h, hl]
  rfl

/-- RESET starts the history again from unlocked (70_reset_and_hazards.md R270, log 17). -/
theorem LockHistoryInv.resetBlock {s : State} (h : Live LockHistoryInv s) : LockHistoryInv (resetBlock s) := by
  refine lockHistoryInv_of_eq ?_
  show lockHistory (s.blk.trace ++ [.resetLine .deasserted]) = some false
  rw [lockHistory_append_singleton, eq_locked h]
  cases s.blk.transceiverLocked <;> rfl

/-- Every effect but a relock keeps what the lock events say. -/
theorem stepKeeps_lockHistory : StepKeeps LockHistoryInv where
  fault _ c h := h.raiseFault c
  refused _ _ h := h
  reply _ h := h
  event _ _ he h := h.emit (lockEvent_of_plainEvent he)
  ncDrawn _ h := h
  gateDrawn _ h := h
  session _ _ _ h := h
  positions _ _ _ h := h
  lost _ hl h := LockHistoryInv.lockLoss h hl
  resolved _ k mb _ _ h := (h.1.setAwait k false).resolveWith k mb
  reset _ h := LockHistoryInv.resetBlock h
  settled _ _ h := lockHistoryInv_of_eq
    ((lockHistory_emit (e := .resetLine .asserted) (lockEvent_eq_self nofun nofun nofun)).trans
      (LockHistoryInv.eq_locked h :))
  expired s k h := LockHistoryInv.setAwait (s := expireReq k s) h.1 k false
  armed _ k h := h.1.setAwait k true
  started _ _ _ _ h := h.1

/-- Between `Locked` and the flag the history says locked, and a fault there leaves it so (R205). -/
theorem busClosed_lockHistory_locked :
    BusClosed (fun s => lockHistory s.blk.trace = some true) LockHistoryInv where
  fault _ h := ⟨true, h, fun hf => absurd rfl hf⟩
  read _ a n data _ _ h :=
    (lockHistory_emit (e := .regRead a n data) (lockEvent_eq_self nofun nofun nofun)).trans h
  write _ a v rx h := (lockHistory_emit (e := .regWrite a v rx) (lockEvent_eq_self nofun nofun nofun)).trans h

/-- A relock from unlocked says locked, and so does the flag (R205). -/
theorem LockHistoryInv.relock {s : State} (h : Live LockHistoryInv s) (hl : s.blk.transceiverLocked = false) :
    LockHistoryInv (relock s) := by
  refine busClosed_lockHistory_locked.clearReason (k := fun s => disarm .lockPoll (setLocked true s))
    (fun _ hu => lockHistoryInv_of_eq hu) _ ?_
  rw [emit_blk_trace, lockHistory_append_singleton, eq_locked h, hl]
  rfl

/-- The first interrupt relocks from unlocked (70_reset_and_hazards.md R272, 44_lock_monitor.md R207). -/
theorem LockHistoryInv.firstInterrupt {s : State} (h : Live LockHistoryInv s) (hl : s.blk.transceiverLocked = false) :
    LockHistoryInv (firstInterrupt s) :=
  stepKeeps_lockHistory.firstInterrupt (lockHistoryInv_of_eq (eq_locked h :))
    (fun _ hu => lockHistoryInv_of_eq (eq_locked hu :)) (fun _ hk hu => relock hu (hk.trans hl)) (fun _ _ hu => hu.1)

/-- Every stimulus keeps the lock history: a poll and a first interrupt find the block unlocked. -/
theorem LockHistoryInv.exec {i : Instr} {s t : State} (h : LockHistoryInv s) (hInv : BlockInv s.blk)
    (hf : s.blk.bringup ≠ .fatal) (he : exec i s = .next t) : LockHistoryInv t :=
  stepKeeps_lockHistory.exec (fun _ hu hk _ hPoll => relock hu (hk.trans (hInv.poll_unlocked hPoll)))
    (fun _ ha => firstInterrupt ⟨h, hf⟩ (hInv.writingTable hf ha).unlocked) h he

/-- Settles O57: a step is a stimulus, or a decode refusal, which emits nothing. -/
theorem lockEventsAlternateBetweenResets : Obligations.LockEventsAlternateBetweenResets := by
  intro s t hInv h hs
  obtain ⟨hf, -, ⟨i, rest, -, he⟩ | ⟨c, -, rfl⟩⟩ := step_cases hs
  · exact LockHistoryInv.exec (s := present rest s) h hInv hf he
  · exact h

end Sys2Proof.Machine
end

section
/-! Request tracking (45_request_tracking.md R220 to R232): arming and expiry of one request kind, an interrupt while no
allocation is awaited, the mailbox answers, and the position getters. -/

namespace Sys2Proof.Machine

/-! ### Arming and expiry of a request -/

/-- The block with the flag of kind `k` at `v` and its timeouts counted `n`: what an arm and an expiry write. -/
def requestSet (k : ReqKind) (v : Bool) (n : Nat) (b : Block) : Block :=
  { withAwait b k v with reqTimers := setReqCount b.reqTimers k n }

theorem armRequest_eq_requestSet (k : ReqKind) (s : State) :
    armRequest k s = onBlock (requestSet k true (reqCount s.blk.reqTimers k + 1)) s := by
  cases k <;> rfl

theorem setAwait_expireReq_eq_requestSet (k : ReqKind) (s : State) :
    setAwait k false (expireReq k s) = onBlock (requestSet k false (reqCount s.blk.reqTimers k - 1)) s := by
  cases k <;> rfl

section

variable (k : ReqKind) (v : Bool) (n : Nat) (b : Block)

@[simp] theorem awaiting_requestSet (j : ReqKind) :
    awaiting (requestSet k v n b) j = if j = k then v else awaiting b j := by
  cases k <;> cases j <;> rfl

@[simp] theorem reqCount_requestSet (j : ReqKind) :
    reqCount (requestSet k v n b).reqTimers j = if j = k then n else reqCount b.reqTimers j :=
  reqCount_setReqCount b.reqTimers k j n

/-- The other kinds are left, and so is every field but the three flags and the timeouts. -/
theorem requestSet_frame :
    (∀ j, j ≠ k → awaiting (requestSet k v n b) j = awaiting b j ∧
      reqCount (requestSet k v n b).reqTimers j = reqCount b.reqTimers j) ∧
    requestSet k v n b = { b with
      awaitAlloc := (requestSet k v n b).awaitAlloc
      awaitGetSource := (requestSet k v n b).awaitGetSource
      awaitDealloc := (requestSet k v n b).awaitDealloc
      reqTimers := (requestSet k v n b).reqTimers } := by
  refine ⟨fun j hj => by simp [hj], ?_⟩
  cases k <;> rfl

end

section

variable {s : State} {k : ReqKind} (hf : s.blk.bringup ≠ .fatal)
include hf

/-- A deallocation without a label is only logged (R226, R232). -/
theorem exec_reqArm_noLabel (hOper : s.blk.bringup = .operational) (hLabel : s.blk.connectionLabel = none) :
    exec (.reqArm .dealloc) s = .next (emit (.log .deallocNoLabel) s) :=
  (unlessFatal_live hf).trans
    (congrArg Host.Outcome.next ((if_neg (not_not.mpr hOper)).trans (if_pos ⟨rfl, hLabel⟩)))

theorem exec_reqArm_armed (hOper : s.blk.bringup = .operational)
    (hLabel : k = .dealloc → s.blk.connectionLabel ≠ none) :
    exec (.reqArm k) s = .next (onBlock (requestSet k true (reqCount s.blk.reqTimers k + 1)) s) := by
  rw [← armRequest_eq_requestSet]
  exact (unlessFatal_live hf).trans
    (congrArg Host.Outcome.next ((if_neg (not_not.mpr hOper)).trans (if_neg fun h => hLabel h.1 h.2)))

theorem exec_tickReq_expires (hOff : s.blk.bringup ≠ .off) (hTimer : 0 < reqCount s.blk.reqTimers k) :
    exec (.tickReq k) s = .next (onBlock (requestSet k false (reqCount s.blk.reqTimers k - 1)) s) := by
  rw [← setAwait_expireReq_eq_requestSet]
  exact (unlessFatal_live hf).trans
    (congrArg Host.Outcome.next ((if_neg hOff).trans (if_neg hTimer.ne')))

end

/-- Settles O48: the state check, the label check of a deallocation, and then the flag and the count of the kind. -/
theorem requestArmSetsFlagAndTimeout : Obligations.RequestArmSetsFlagAndTimeout := by
  intro s k hf
  refine ⟨fun hOper => unlessFatal_refused hf (if_pos hOper), ?noLabel, fun hOper hLabel => ?armed⟩
  case noLabel =>
    rintro hOper rfl hLabel
    exact exec_reqArm_noLabel hf hOper hLabel
  case armed =>
    obtain ⟨hOthers, hFrame⟩ := requestSet_frame k true (reqCount s.blk.reqTimers k + 1) s.blk
    exact ⟨_, exec_reqArm_armed hf hOper hLabel, rfl, rfl, by simp, by simp, hOthers, hFrame⟩

/-- Settles O49: the two refusals are those of every timer stimulus; an expiry counts one timeout less. -/
theorem requestTimeoutClearsFlag : Obligations.RequestTimeoutClearsFlag := by
  intro s k hf
  refine ⟨fun hOff => offAdmitsOnlyReset s _ hOff nofun rfl, fun hOff hNone => ?unarmed, fun hOff hTimer => ?expires⟩
  case unarmed => exact timerStimulusNeedsItsTimer s _ hf hOff (by simp [timerEnabled, hNone])
  case expires =>
    obtain ⟨hOthers, hFrame⟩ := requestSet_frame k false (reqCount s.blk.reqTimers k - 1) s.blk
    have hCount : reqCount s.blk.reqTimers k - 1 + 1 = reqCount s.blk.reqTimers k := Nat.sub_add_cancel hTimer
    exact ⟨_, exec_tickReq_expires hf hOff hTimer, rfl, rfl, by simp, by simpa using hCount, hOthers, hFrame⟩

/-! ### An interrupt while no allocation is awaited -/

theorem pendingRequest_ne_alloc {b : Block} (h : b.awaitAlloc = false) : pendingRequest b ≠ some .alloc := by
  rw [pendingRequest, if_neg (by simp [h])]
  split_ifs <;> nofun

/-- `t` follows `s` with the allocation flag down, the allocation result of `s`, and no `AllocResult` emitted since. -/
structure NoAllocResult (s t : State) : Prop where
  awaitAlloc : t.blk.awaitAlloc = false
  allocResult : t.blk.allocResult = s.blk.allocResult
  emitted : ∃ evs : List Event, t.blk.trace = s.blk.trace ++ evs ∧ ∀ r, .allocResult r ∉ evs

namespace NoAllocResult

variable {s t : State}

theorem refl (h : s.blk.awaitAlloc = false) : NoAllocResult s s := ⟨h, rfl, [], by simp⟩

theorem emit (h : NoAllocResult s t) {e : Event} (he : ∀ r, e ≠ .allocResult r) : NoAllocResult s (emit e t) := by
  obtain ⟨evs, hTrace, hNone⟩ := h.emitted
  refine { h with emitted := ⟨evs ++ [e], by simp [hTrace], fun r hr => ?_⟩ }
  rcases List.mem_append.mp hr with hr | hr
  · exact hNone r hr
  · exact he r (List.mem_singleton.mp hr).symm

/-- With the allocation flag down the pending request is another kind, whose result is another event (R222, R229). -/
theorem resolved (h : NoAllocResult s t) {k : ReqKind} (hk : pendingRequest t.blk = some k) (mb : List Byte) :
    NoAllocResult s (resolveWith k mb (setAwait k false t)) := by
  rw [resolveWith_setAwait]
  cases k with
  | alloc => exact absurd hk (pendingRequest_ne_alloc h.awaitAlloc)
  | getSource => exact emit (t := onBlock (resolvedBlock t.cfg mb .getSource) t) { h with } nofun
  | dealloc => exact emit (t := onBlock (resolvedBlock t.cfg mb .dealloc) t) { h with } nofun

theorem interruptKeeps (s : State) : InterruptKeeps (NoAllocResult s) where
  fault _ _ h := { h with }
  refused _ _ h := { h with }
  reply _ h := { h with }
  event _ _ he h := h.emit (by rintro r rfl; cases he)
  ncDrawn _ h := { h with }
  gateDrawn _ h := { h with }
  session _ _ _ h := { h with }
  positions _ _ _ h := { h with }
  lost _ _ h := { h.1.emit (e := .unlocked) nofun with }
  resolved _ _ mb hk _ h := h.1.resolved hk mb

theorem relock (h : Live (NoAllocResult s) t) : NoAllocResult s (relock t) :=
  (interruptKeeps s).bus.clearReason (k := fun t => disarm .lockPoll (setLocked true t))
    (fun _ hu => { hu.1 with }) _ ⟨h.1.emit nofun, h.2⟩

/-- The first interrupt awaits a deallocation, never an allocation (70_reset_and_hazards.md R274). -/
theorem firstInterrupt (h : s.blk.awaitAlloc = false) : NoAllocResult s (firstInterrupt s) :=
  (interruptKeeps s).firstInterrupt { refl h with } (fun _ hu => { hu.1 with }) (fun _ _ hu => relock hu)
    (fun _ _ hu => { hu.1 with })

end NoAllocResult

/-- An interrupt is refused, ignored, the first one or serviced (42_interrupt_dispatch.md R130, R141). -/
theorem InterruptKeeps.interrupt {Q : State → Prop} (h : InterruptKeeps Q) {s : State} (hs : Live Q s)
    (hFirst : s.blk.irqArmed = .oneShot → Q (Machine.firstInterrupt s)) : Q (interrupt s) := by
  unfold Machine.interrupt
  split
  · exact h.refused s _ hs.1
  · split
    · exact h.event s _ rfl hs.1
    · next ha => exact hFirst ha
    · exact h.dispatch hs

/-- Settles O50: no effect of an interrupt is an allocation result while its flag is down. -/
theorem lateAllocationResponseIsIgnored : Obligations.LateAllocationResponseIsIgnored := by
  intro s t hIdle h
  obtain ⟨hf, rfl⟩ := unlessFatal_next h
  have hKept : NoAllocResult s (interrupt s) := (NoAllocResult.interruptKeeps s).interrupt
    ⟨.refl hIdle, hf⟩ fun _ => .firstInterrupt hIdle
  exact ⟨hKept.awaitAlloc, hKept.allocResult, hKept.emitted⟩

/-! ### The mailbox answers -/

theorem getElem?_eq_some_byteAt {p : List Byte} {i : Nat} (h : i < p.length) : p[i]? = some (byteAt p i) := by
  simp [byteAt, h]

theorem byteAt_of_getElem?_eq_some {p : List Byte} {i : Nat} {c : Byte} (h : p[i]? = some c) : byteAt p i = c := by
  simp [byteAt, h]

/-- A map that gives the codes 1 to 4 an answer each, and every other code Error, read by the number of the code. -/
theorem answer_of_code {α : Type} {f : Byte → α} {a₁ a₂ a₃ a₄ e : α}
    (hf : ∀ c, f c = if c = 1 then a₁ else if c = 2 then a₂ else if c = 3 then a₃ else if c = 4 then a₄ else e)
    (c : Byte) :
    (c.toNat = 1 → f c = a₁) ∧ (c.toNat = 2 → f c = a₂) ∧ (c.toNat = 3 → f c = a₃) ∧ (c.toNat = 4 → f c = a₄) ∧
    (c.toNat = 0 ∨ 5 ≤ c.toNat → f c = e) := by
  have hNat : f c = if c.toNat = 1 then a₁ else if c.toNat = 2 then a₂ else if c.toNat = 3 then a₃
      else if c.toNat = 4 then a₄ else e := by
    simp [hf, BitVec.toNat_eq]
  refine ⟨fun h => by simp [hNat, h], fun h => by simp [hNat, h], fun h => by simp [hNat, h],
    fun h => by simp [hNat, h], fun h => ?_⟩
  rw [hNat, if_neg (by omega), if_neg (by omega), if_neg (by omega), if_neg (by omega)]

/-- Settles O51: the answer by its code, and each index of the layout is below 11. -/
theorem allocationResultFields : Obligations.AllocationResultFields := by
  intro P p c hLen hc r
  have hAnswer : r.answer = allocAnswer c := congrArg allocAnswer (byteAt_of_getElem?_eq_some hc)
  have hFree : r.freeChannels = if r.answer = .error then 0 else byteAt p 1 := rfl
  have hByte : ∀ i : Fin 11, p[i.val]? = some (byteAt p i.val) := fun i =>
    getElem?_eq_some_byteAt (i.isLt.trans_le hLen)
  obtain ⟨hGrant, hBusy, hDeny, hWrongTarget, hError⟩ := answer_of_code (f := allocAnswer) (fun _ => rfl) c
  rw [← hAnswer] at hGrant hBusy hDeny hWrongTarget hError
  refine ⟨hGrant, hBusy, hDeny, hWrongTarget, hError, fun hOk => ?_, fun hErr => ?_,
    hByte _, hByte _, hByte _, hByte _, hByte _⟩
  · rw [hFree, if_neg hOk]
    exact hByte 1
  · rw [hFree, if_pos hErr]

/-- Entries for other codes do not count (R226, log 11). -/
theorem lookupDealloc_append {c : Byte} {before : DeallocCodeMap} (h : ∀ entry ∈ before, entry.1 ≠ c)
    (more : DeallocCodeMap) : lookupDealloc (before ++ more) c = lookupDealloc more c := by
  induction before with
  | nil => rfl
  | cons entry before ih =>
    obtain ⟨hEntry, hBefore⟩ := List.forall_mem_cons.mp h
    exact (if_neg hEntry.symm).trans (ih hBefore)

/-- Settles O52: the map is read up to its first entry for the code, and to its end where it has none. -/
theorem deallocationResultAnswer : Obligations.DeallocationResultAnswer := by
  intro P p c _ hc
  have hAnswer : deallocAnswer P p = lookupDealloc P.deallocCodeMap c :=
    congrArg (lookupDealloc P.deallocCodeMap) (byteAt_of_getElem?_eq_some hc)
  rw [hAnswer]
  refine ⟨fun before more a hMap hBefore => ?first, fun hNone => ?unlisted, fun hDefault => ?default⟩
  case first =>
    rw [hMap, lookupDealloc_append hBefore]
    exact if_pos rfl
  case unlisted =>
    rw [← List.append_nil P.deallocCodeMap, lookupDealloc_append hNone]
    rfl
  case default =>
    rw [hDefault]
    exact answer_of_code (f := lookupDealloc defaultDeallocCodes) (fun _ => rfl) c

/-! ### The position getters -/

/-- Settles O53: Off refuses both, and elsewhere each is one event. -/
theorem positionGettersReturnTheCache : Obligations.PositionGettersReturnTheCache := by
  intro s hf
  refine ⟨fun hOff => ⟨?_, ?_⟩, fun hOff => ⟨?_, ?_⟩⟩
  · exact offAdmitsOnlyReset s .getNodePos hOff nofun rfl
  · exact offAdmitsOnlyReset s .getMaxPos hOff nofun rfl
  · exact (unlessFatal_live hf).trans (congrArg Host.Outcome.next (if_neg hOff))
  · exact (unlessFatal_live hf).trans (congrArg Host.Outcome.next (if_neg hOff))

end Sys2Proof.Machine
end

section
/-! Exceptions (60_exceptions.md R240 to R243): no step in Fatal, the end of a run at a decode refusal, and the stimuli
that touch no register. -/

namespace Sys2Proof.Machine

/-! ### Fatal -/

/-- Every stimulus asks for Fatal before its meaning. -/
theorem exec_eq_unlessFatal (i : Instr) (s : State) : ∃ f, exec i s = unlessFatal f s := by
  cases i <;> exact ⟨_, rfl⟩

theorem exec_next_bringup_ne_fatal {i : Instr} {s t : State} (h : exec i s = .next t) : s.blk.bringup ≠ .fatal := by
  obtain ⟨f, hf⟩ := exec_eq_unlessFatal i s
  exact (unlessFatal_next (hf ▸ h)).1

/-- Settles O9: a next state, of a stimulus or of a step, says that the block was not in Fatal. -/
theorem fatalHasNoStep : Obligations.FatalHasNoStep := by
  intro s i hFatal
  exact ⟨fun t h => exec_next_bringup_ne_fatal h hFatal, fun t h => (step_cases h).1 hFatal⟩

/-! ### The end of a run -/

/-- A program that is not empty and does not decode ends the run (R243). -/
theorem runNext_of_decode_error {run : Instr → State → Outcome} {s : State} {c : RefusalCode}
    (hProgram : s.env.program ≠ []) (hd : decode s.env.program = .error c) : runNext run s = .next (endRun c s) := by
  rw [runNext]
  split
  · next hNil => exact absurd hNil hProgram
  · rw [hd]

/-- After a decode refusal there is no further step (70_reset_and_hazards.md R287(b)). -/
theorem step_of_ended {s : State} (hf : s.blk.bringup ≠ .fatal) (he : s.env.ended.isSome = true) :
    step s = .refused .runEnded := by
  rw [step, stepWith, if_neg hf, if_pos he]

/-- Settles O8: the refusal is `endRun`, which leaves the bring-up state and records the end (log 8). -/
theorem decodeRefusalEndsTheRun : Obligations.DecodeRefusalEndsTheRun := by
  intro s c hf he hProgram hd
  constructor
  · exact (step_eq_runNext hf he).trans (runNext_of_decode_error hProgram hd)
  · exact step_of_ended hf rfl

/-! ### No register access -/

/-- `t` follows `s` with no register access between them: no answer of the chip is used up, no access is recorded, and
no fault is the failure of one. -/
structure RegistersUntouched (s t : State) : Prop where
  replies : t.env.replies = s.env.replies
  fault : t.blk.fault = some .transport → s.blk.fault = some .transport
  emitted : ∃ evs : List Event, t.blk.trace = s.blk.trace ++ evs ∧ ∀ e ∈ evs, recordedAccess e = none

namespace RegistersUntouched

variable {s t : State}

theorem refl (s : State) : RegistersUntouched s s := ⟨rfl, id, [], by simp⟩

theorem emit (h : RegistersUntouched s t) {e : Event} (he : recordedAccess e = none) :
    RegistersUntouched s (emit e t) := by
  obtain ⟨evs, hTrace, hNone⟩ := h.emitted
  refine { h with emitted := ⟨evs ++ [e], by simp [hTrace], ?_⟩ }
  exact List.forall_mem_append.mpr ⟨hNone, List.forall_mem_singleton.mpr he⟩

theorem refuse (h : RegistersUntouched s t) (c : RefusalCode) : RegistersUntouched s (refuse c t) := { h with }

theorem requestSet (h : RegistersUntouched s t) (k : ReqKind) (v : Bool) (n : Nat) :
    RegistersUntouched s (onBlock (requestSet k v n) t) := by
  cases k <;> exact { h with }

theorem resetBlock (s : State) : RegistersUntouched s (resetBlock s) :=
  { (refl s).emit (e := .resetLine .deasserted) rfl with }

theorem startMultiPart (hd : Header) (p : List Byte) (s : State) : RegistersUntouched s (startMultiPart hd p s) := by
  cases hSession : s.blk.mpSession with
  | none =>
    rw [startMultiPart_idle hSession]
    exact { (refl s).emit (e := .frameOut _) rfl with }
  | some ses =>
    rw [startMultiPart_busy hSession]
    exact { refl s with fault := nofun }

theorem sendRequest (req : TxRequest) (s : State) : RegistersUntouched s (sendRequest req s) := by
  unfold Machine.sendRequest
  split_ifs
  · exact (refl s).refuse .fieldRange
  · exact (refl s).refuse .state
  · exact (refl s).emit rfl
  · exact (refl s).emit rfl
  · exact startMultiPart req.hdr req.payload s

theorem tickSettle (s : State) : RegistersUntouched s (tickSettle s) := by
  unfold Machine.tickSettle
  split_ifs
  · exact (refl s).refuse .state
  · exact (refl s).refuse .notEnabled
  · exact { (refl s).emit (e := .resetLine .asserted) rfl with }

theorem tickReq (k : ReqKind) (s : State) : RegistersUntouched s (tickReq k s) := by
  unfold Machine.tickReq
  split_ifs
  · exact (refl s).refuse .state
  · exact (refl s).refuse .notEnabled
  · rw [setAwait_expireReq_eq_requestSet]
    exact (refl s).requestSet k _ _

theorem reqArm (k : ReqKind) (s : State) : RegistersUntouched s (reqArm k s) := by
  unfold Machine.reqArm
  split_ifs
  · exact (refl s).refuse .state
  · exact (refl s).emit rfl
  · rw [armRequest_eq_requestSet]
    exact (refl s).requestSet k _ _

theorem getNodePos (s : State) : RegistersUntouched s (getNodePos s) := by
  unfold Machine.getNodePos
  split_ifs
  · exact (refl s).refuse .state
  · exact (refl s).emit rfl

theorem getMaxPos (s : State) : RegistersUntouched s (getMaxPos s) := by
  unfold Machine.getMaxPos
  split_ifs
  · exact (refl s).refuse .state
  · exact (refl s).emit rfl

theorem exec {i : Instr} (hi : isBusFree i = true) (he : exec i s = .next t) : RegistersUntouched s t := by
  cases i with
  | reset => exact unlessFatal_rule he (resetBlock s)
  | send req => exact unlessFatal_rule he (sendRequest req s)
  | tickSettle => exact unlessFatal_rule he (tickSettle s)
  | tickReq k => exact unlessFatal_rule he (tickReq k s)
  | reqArm k => exact unlessFatal_rule he (reqArm k s)
  | getNodePos => exact unlessFatal_rule he (getNodePos s)
  | getMaxPos => exact unlessFatal_rule he (getMaxPos s)
  | _ => exact nomatch hi

end RegistersUntouched

/-- Settles O60, stimulus by stimulus: the one fault among them is that of an overlapping SEND (43_frame_codec.md
R165). -/
theorem busFreeStimuliTouchNoRegister : Obligations.BusFreeStimuliTouchNoRegister := by
  intro s t i hi he
  have h := RegistersUntouched.exec hi he
  exact ⟨h.replies, h.fault, h.emitted⟩

end Sys2Proof.Machine
end

section
/-! Reset and bring-up (70_reset_and_hazards.md R270 to R276): RESET, the end of the settle delay, and the four stimuli
that lead from the launch state to OPERATIONAL_CLEAN. -/

namespace Sys2Proof.Machine

/-! ### RESET and TICK_SETTLE -/

/-- Settles O10: in Fatal no stimulus has a step, and outside Fatal RESET is `resetBlock`. -/
theorem resetStimulusSetsResetValues : Obligations.ResetStimulusSetsResetValues := by
  intro s
  exact ⟨fun hFatal => (fatalHasNoStep s .reset hFatal).1, fun hf => unlessFatal_live hf⟩

/-- Settles O12: with the timer armed both checks pass; the refusals are those of every stimulus in Off and of every
timer stimulus. -/
theorem settleTickArmsTheWatch : Obligations.SettleTickArmsTheWatch := by
  intro s hf
  refine ⟨fun hOff ha => ?armed, fun hOff => ?off, fun hOff ha => ?unarmed⟩
  case armed =>
    have hArmed : s.blk.settleArmed ≠ false := ne_false_of_eq_true ha
    exact (unlessFatal_live hf).trans (congrArg Host.Outcome.next ((if_neg hOff).trans (if_neg hArmed)))
  case off => exact offAdmitsOnlyReset s .tickSettle hOff nofun rfl
  case unarmed => exact timerStimulusNeedsItsTimer s .tickSettle hf hOff ha

/-! ### From the launch to OPERATIONAL_CLEAN -/

/-- The block of a bring-up that waits for the first interrupt: what RESET and TICK_SETTLE make of the launch state. -/
def Block.afterSettle : Block :=
  { Block.launch .asserted with
    bringup := .awaitingFirstInterrupt
    irqArmed := .oneShot
    trace := [.resetLine .deasserted, .resetLine .asserted] }

theorem exec_reset_launch (P : Params) (line : ResetLevel) (env : Env) :
    exec .reset { cfg := P, blk := Block.launch line, env := env } =
      .next { cfg := P, blk := Block.afterReset, env := env } :=
  (resetStimulusSetsResetValues _).2 Bringup.noConfusion

theorem exec_tickSettle_afterReset (P : Params) (env : Env) :
    exec .tickSettle { cfg := P, blk := Block.afterReset, env := env } =
      .next { cfg := P, blk := Block.afterSettle, env := env } :=
  (settleTickArmsTheWatch _ Bringup.noConfusion).1 Bringup.noConfusion rfl

/-- The chip's answers depend on the block by its trace only. -/
theorem chipPlays_afterSettle (P : Params) (env : Env) (evs : List Event) :
    chipPlays evs { cfg := P, blk := Block.afterSettle, env := env } =
      chipPlays evs { cfg := P, blk := { Block.launch .asserted with trace := Block.afterSettle.trace }, env := env } :=
  chipPlays_onBlock (f := fun b => { b with bringup := .awaitingFirstInterrupt, irqArmed := .oneShot })
    (fun _ _ => rfl) evs
    { cfg := P, blk := { Block.launch .asserted with trace := Block.afterSettle.trace }, env := env }

/-- The events of a first interrupt: the table, the release of all channels and the lock check (R272 to R274). -/
def firstInterruptEvents (P : Params) (rxs : List Byte) (p q v rx : Byte) : List Event :=
  tableEvents P.configTable rxs ++ [.allocPortReq .deallocAll broadcastLabel] ++ evalEvents P p q ++
    if bothLocked P p q then [.locked] ++ clearEvents P .err v rx else []

section

variable {P : Params} {rxs : List Byte} {p q v rx : Byte}

theorem firstInterruptEvents_locked (h : bothLocked P p q = true) :
    firstInterruptEvents P rxs p q v rx = tableEvents P.configTable rxs ++ [.allocPortReq .deallocAll broadcastLabel] ++
      evalEvents P p q ++ [.locked] ++ clearEvents P .err v rx := by
  simp [firstInterruptEvents, h]

theorem firstInterruptEvents_unlocked (h : bothLocked P p q = false) :
    firstInterruptEvents P rxs p q v rx = tableEvents P.configTable rxs ++ [.allocPortReq .deallocAll broadcastLabel] ++
      evalEvents P p q := by
  simp [firstInterruptEvents, h]

end

/-- What a first interrupt makes of a block without lock and lock poll, but for the trace; `locked` is the answer of the
lock check (R272 to R274, 44_lock_monitor.md R207). -/
def broughtUpBlock (P : Params) (locked : Bool) (b : Block) : Block :=
  { configuredBlock b with
    transceiverLocked := locked
    lockPollActive := !locked && P.bringupStartsPoll }

/-- Both outcomes of the lock check as one: the first interrupt of a block without lock and lock poll. -/
theorem exec_irq_bringsUp {s : State} {rxs : List Byte} {p q v rx : Byte} (hs : watching s = true)
    (hl : rxs.length = s.cfg.configTable.length) (hNoLock : s.blk.transceiverLocked = false)
    (hNoPoll : s.blk.lockPollActive = false) (h : chipPlays (firstInterruptEvents s.cfg rxs p q v rx) s = true) :
    exec .irq s = .next (onBlock (broughtUpBlock s.cfg (bothLocked s.cfg p q))
      (played (firstInterruptEvents s.cfg rxs p q v rx) s)) := by
  obtain ⟨hRelocks, hStays⟩ := firstInterruptConfiguresTheChip s rxs p q v rx hs hl
  cases hLock : bothLocked s.cfg p q with
  | true =>
    rw [firstInterruptEvents_locked hLock] at h ⊢
    exact hRelocks hLock h
  | false =>
    rw [firstInterruptEvents_unlocked hLock] at h ⊢
    rw [hStays hLock h]
    simp [onBlock, broughtUpBlock, configuredBlock, played_blk, hNoLock, hNoPoll]

/-- Settles O17: the four stimuli one after another; the last one takes back what the bring-up armed of the
deallocation. -/
theorem bringupReachesOperationalClean : Obligations.BringupReachesOperationalClean := by
  intro P line env rxs p q v rx hl evs lines h
  have hIrq := exec_irq_bringsUp (s := { cfg := P, blk := Block.afterSettle, env := env }) rfl hl rfl rfl
    ((chipPlays_afterSettle P env evs).trans h)
  refine ⟨_, _, _, _, exec_reset_launch P line env, exec_tickSettle_afterReset P env, hIrq,
    exec_tickReq_expires Bringup.noConfusion Bringup.noConfusion ?timer, played_cfg evs _, ?blk⟩
  case timer => simp [broughtUpBlock, configuredBlock, reqCount]
  case blk =>
    rw [onBlock_blk, onBlock_blk, played_blk]
    rfl

end Sys2Proof.Machine
end
